-- ==== Sys2Proof/Word.lean ====
section
/-! DEFINITION. The words of fixed width (spec/00_scope.md rules R10 to R12, spec/30_encoding.md rules R92 and R100).
What is `DUR_W` or `CMD_W` bits wide has no type of its own: `DUR_W` is a parameter (R10), the spec's values are naturals
(R14), and that they fit their registers is an invariant (Safety.lean: `WidthInv`, `QueueInv`). -/

namespace Sys2Proof

/-- `LEN_W` (R10, R100): the width of a pulse-code length field, "fixed by the word layout". -/
abbrev lenW : Nat := 15

/-- One colour channel, or one byte of a frame (R11). -/
abbrev Byte := BitVec 8

/-- A 24-bit colour in the layout `0xRRGGBB` of R92. -/
abbrev Color := BitVec 24

/-- A pulse-code word as it crosses `pc_data` (R100). -/
abbrev PulseWord := BitVec 32

end Sys2Proof
end

