-- ==== Sys2Proof/Config.lean ====
section
/-! DEFINITION. What the build fixes (spec/00_scope.md rules R10 and R13) and what the outside world is free to do:
the parameters, the values of the input ports in one clock cycle (spec/10_state.md rule R54), and the one free value
of this model, the port values a run meets when no list of them is given. -/

namespace Sys2Proof.Config

/-- The parameters of R10. `LEN_W`, which the layout of R100 fixes, is `lenW` (Word.lean). -/
structure Params where
  /-- `PCLK_HZ`: the sink's peripheral clock, in Hz. -/
  pclkHz : Nat
  /-- `SHORT_CYCLES`: the SHORT phase, in peripheral clock cycles. -/
  shortCycles : Nat
  /-- `LONG_CYCLES`: the LONG phase, in peripheral clock cycles. -/
  longCycles : Nat
  /-- `RESET_CYCLES`: the low phase of the RESET code, in peripheral clock cycles. -/
  resetCycles : Nat
  /-- `TICK_HZ`: the `time_tick` strobe's frequency, in Hz. -/
  tickHz : Nat
  /-- `REFRESH_INTERVAL`, in duration units. -/
  refreshInterval : Nat
  /-- `STEADY_SLEEP`, in duration units. -/
  steadySleep : Nat
  /-- `DUR_W`: the width of every duration register and field. -/
  durW : Nat
deriving DecidableEq, Repr

/-- `CMD_W = DUR_W + 49` (R12, R91): the width of a command word. -/
abbrev Params.cmdW (p : Params) : Nat := p.durW + 49

/-- The constraints of the table in R10. -/
abbrev Params.Valid (p : Params) : Prop :=
  0 < p.pclkHz ∧
  1 ≤ p.shortCycles ∧ p.shortCycles < p.longCycles ∧ p.longCycles ≤ 2 ^ lenW - 1 ∧
  1 ≤ p.resetCycles ∧ p.resetCycles ≤ 2 ^ lenW - 1 ∧
  0 < p.tickHz ∧
  1 ≤ p.refreshInterval ∧ p.refreshInterval ≤ 2 ^ p.durW - 1 ∧
  1 ≤ p.steadySleep ∧ p.steadySleep ≤ 2 ^ p.durW - 1 ∧
  1 ≤ p.durW

/-- The defaults of R10: "the values the spec fixes for \"this hardware\"" (log entry 5). -/
def thisHardware : Params where
  pclkHz := 80000000
  shortCycles := 32
  longCycles := 64
  resetCycles := 4000
  tickHz := 1000000
  refreshInterval := 50000
  steadySleep := 3600000000
  durW := 32

/-- R13: a nominal time in nanoseconds as peripheral clock cycles, "rounded to the nearest integer" (a half rounds up:
log entry 14). -/
def nominalCycles (ns pclkHz : Nat) : Nat := (2 * ns * pclkHz + 1000000000) / 2000000000

/-- R13: a build at another peripheral clock recomputes the three pulse lengths from the nominal 0.4 µs, 0.8 µs and
50 µs, and keeps the rest. -/
def Params.atClock (p : Params) (pclkHz : Nat) : Params :=
  { p with
    pclkHz := pclkHz
    shortCycles := nominalCycles 400 pclkHz
    longCycles := nominalCycles 800 pclkHz
    resetCycles := nominalCycles 50000 pclkHz }

/-- The input ports of R54 as sampled at one rising edge of `clk`: one move of each outside agent of R9 (the platform's
reset, the time base, a producer, the sink). -/
structure PortIn where
  /-- `rst` -/
  rst : Bool
  /-- `time_tick` -/
  timeTick : Bool
  /-- `cmd_valid` -/
  cmdValid : Bool
  /-- `cmd_data`, as a number: the port's `CMD_W` wires carry its low `CMD_W` bits (`portWord`, Ops.lean). -/
  cmdData : Nat
  /-- `pc_ready` -/
  pcReady : Bool
  /-- `tx_resp_valid` -/
  txRespValid : Bool
  /-- `tx_resp_fail` -/
  txRespFail : Bool
deriving DecidableEq, Repr, Inhabited

/-- A cycle in which no outside agent does anything. -/
def PortIn.quiet : PortIn :=
  { rst := false, timeTick := false, cmdValid := false, cmdData := 0
    pcReady := false, txRespValid := false, txRespFail := false }

/-- The free value of the model (log entry 1): the input ports in cycle `n` of a run that gives no list of inputs. It
has no body, so a proof about such a run holds for every host. -/
opaque freeInputs : Nat → PortIn

end Sys2Proof.Config
end

