-- ==== Sys2Proof/Machine/State.lean ====
section
/-! DEFINITION. The state of the block (spec/10_state.md rules R30 to R45) with its reset values (rule R52), the two
fields this model adds to hold the outside world's moves, and the reasons a step can stop. -/

namespace Sys2Proof.Machine

open Sys2Proof.Config

/-- `PHASE` (R41), the sequencer state and the counterpart of a program counter. R42 allows the enumeration, which
leaves out the unreachable values 5 to 7. -/
inductive Phase where
  | tick | tx | txWait | race | halt
deriving DecidableEq, Repr

/-- The number of a phase in R41's table. -/
def Phase.code : Phase → BitVec 3
  | .tick => 0
  | .tx => 1
  | .txWait => 2
  | .race => 3
  | .halt => 4

/-- `CUR_OP` (R32): the kind of the current command. -/
inductive CmdKind where
  | steady | blinky
deriving DecidableEq, Repr

/-- The bit of a kind (R32, R94). -/
def CmdKind.bit : CmdKind → Bool
  | .steady => false
  | .blinky => true

/-- `FAULT_CAUSE` (R44, R240). The reserved codes 2 and 3 are "never written", and have no constructor (log entry 9). -/
inductive FaultCause where
  | none | txFail
deriving DecidableEq, Repr

/-- The two-bit code of a cause (R240). -/
def FaultCause.code : FaultCause → BitVec 2
  | .none => 0
  | .txFail => 1

/-- Why the model stops with a fault. The block's own fault, `TX_FAIL`, is none of these: it is a next state in
`HALT` (R242). -/
inductive Fault where
  /-- Raised by the TX phase when a code is taken with `CODE_IDX > 24`: the table of R201 has no row for it. No
  reachable state raises it (R50). Safe (log entry 8). -/
  | noRowForCodeIndex
deriving DecidableEq, Repr

/-- Why a step has no meaning. -/
inductive Refusal where
  /-- Raised by an arm of `exec` for a command without a meaning; no arm does. Safe. -/
  | notModelled (mnemonic : String)
  /-- Raised by the TICK phase when a Blinky is current and `1 <= CUR_PERIOD`, `ELAPSED <= CUR_PERIOD` (R48) does not
  hold, where R142 gives no result: spec/93_implementation_defined.md U1 says to refuse. No reachable state raises it.
  Safe (log entry 6). -/
  | tickOutsideDomain
  /-- Raised by the RACE phase when the word it pops is the illegal Blinky of R96, which "never reaches" the queue
  (R49, R173). No reachable state raises it. Safe (log entry 7). -/
  | illegalWordQueued
  /-- Raised by the meaning of `BLINKY` for period 0, a word that is "never applied" (R178); spec/93 U1 says to refuse.
  The decoder never gives that command. Safe (log entry 7). -/
  | blinkyPeriodZero
deriving DecidableEq, Repr

/-- The state. `CUR_PERIOD`, `ELAPSED` and `SLEEP_REM` are `DUR_W` bits wide and a word of `Q` is `CMD_W` bits; `DUR_W`
is a parameter (R10), so they are naturals here (R14), and that they fit is an invariant (`WidthInv`, `QueueInv` in
Safety.lean; log entry 4). The first thirteen fields are the tuple of R30 (`Q_COUNT` is the length of `q`, R43:
`State.qCount` below). The last two are this model's own (log entries 1 and 2): the spec's step reads the input ports of the cycle,
and a step that is a function of the state alone must find them there. -/
structure State where
  /-- `PHASE` (R41). -/
  phase : Phase
  /-- `CUR_OP` (R32). -/
  curOp : CmdKind
  /-- `CUR_C0` (R33). -/
  curC0 : Color
  /-- `CUR_C1` (R34). -/
  curC1 : Color
  /-- `CUR_PERIOD` (R35). -/
  curPeriod : Nat
  /-- `FORWARD` (R36): true is forward. -/
  forward : Bool
  /-- `ELAPSED` (R37). -/
  elapsed : Nat
  /-- `FRAME_COLOR` (R38). -/
  frameColor : Color
  /-- `SLEEP_REM` (R39). -/
  sleepRem : Nat
  /-- `CODE_IDX` (R40). -/
  codeIdx : BitVec 5
  /-- `Q` (R43): the command words as they were accepted, head first. -/
  q : List Nat
  /-- `FAULT_CAUSE` (R44). -/
  faultCause : FaultCause
  /-- `CMD_REJECTED` (R45). -/
  cmdRejected : Bool
  /-- The model's own: the input ports of the coming cycles, the next cycle's first. Where the list has ended, the
  ports hold `Config.freeInputs`. -/
  inputs : List PortIn
  /-- The model's own: the number of the coming cycle, which indexes `Config.freeInputs`. -/
  cycle : Nat
deriving DecidableEq, Repr

/-- `Q_COUNT` (R43): the length of `Q`, in two bits. -/
def State.qCount (s : State) : BitVec 2 := BitVec.ofNat 2 s.q.length

/-- The state right after reset (R52); the model's own two fields are empty and 0 (log entries 1 and 2). -/
def State.reset : State where
  phase := .tick
  curOp := .steady
  curC0 := 0#24
  curC1 := 0#24
  curPeriod := 0
  forward := true
  elapsed := 0
  frameColor := 0#24
  sleepRem := 0
  codeIdx := 0#5
  q := []
  faultCause := .none
  cmdRejected := false
  inputs := []
  cycle := 0

end Sys2Proof.Machine
end

