-- ==== Sys2Proof/Machine/Flags.lean ====
section
/-! DEFINITION. The flags: `FORWARD`, "the block's only flag" (spec/10_state.md rule R36), as a tick reads and writes
it (spec/41_animation.md rules R144 and R147), and the status outputs (spec/30_encoding.md rule R104). -/

namespace Sys2Proof.Machine

/-- R144: the ratio from the raw ratio and the direction. -/
def ratioOf (forward : Bool) (rawRatio : Nat) : Nat := if forward then rawRatio else 256 - rawRatio

/-- R147: whether a tick with this direction and ratio flips the direction. -/
def flips (forward : Bool) (ratio : Nat) : Bool :=
  if forward then ratio == 256 else ratio == 0

/-- R147: `FORWARD` after a Blinky tick. -/
def forwardAfter (forward : Bool) (ratio : Nat) : Bool :=
  if flips forward ratio then !forward else forward

/-- `halted` (R55, R104). -/
def halted (s : State) : Bool := s.phase == .halt

/-- The `STATUS` word of R90, `{halted, fault_cause, cmd_rejected}`, coded as R104 says. -/
def statusWord (s : State) : BitVec 4 :=
  BitVec.ofBool (halted s) ++ s.faultCause.code ++ BitVec.ofBool s.cmdRejected

end Sys2Proof.Machine
end

