-- ==== Sys2Proof/Machine/Operands.lean ====
section
/-! DEFINITION. The operand forms: the three channels of a colour (spec/30_encoding.md rule R92,
spec/41_animation.md rule R151). A duration operand is a natural and has one form only (rule R93). -/

namespace Sys2Proof.Machine

/-- `r = c[23:16]` (R92). -/
def red (c : Color) : Byte := c.extractLsb' 16 8

/-- `g = c[15:8]` (R92). -/
def green (c : Color) : Byte := c.extractLsb' 8 8

/-- `b = c[7:0]` (R92). -/
def blue (c : Color) : Byte := c.extractLsb' 0 8

/-- `c = {r, g, b}` (R92). -/
def mkColor (r g b : Byte) : Color := r ++ g ++ b

end Sys2Proof.Machine
end

