-- ==== Sys2Proof/Machine/Animation.lean ====
section
/-! DEFINITION. The animation interpolator of spec/41_animation.md: `raw_ratio`, `lerp`, the advance, the flip, and
`tick` for a Steady (rule R141) and a Blinky (rule R142). Every computation is on naturals, exact (rules R14, R149). -/

namespace Sys2Proof.Machine

open Sys2Proof.Config

/-- What `tick` returns (R140): `(next_sleep, color, forward', elapsed')`. -/
structure TickResult where
  nextSleep : Nat
  color : Color
  forward : Bool
  elapsed : Nat
deriving DecidableEq, Repr

/-- R143: `(E * 256) // P`, the product formed exactly. -/
def rawRatio (elapsed period : Nat) : Nat := elapsed * 256 / period

/-- R145, one lane: `(a * ratio + b * (256 - ratio)) // 256`. For `ratio <= 256` the value fits a channel (R150). -/
def lerp (a b : Byte) (ratio : Nat) : Byte :=
  BitVec.ofNat 8 ((a.toNat * ratio + b.toNat * (256 - ratio)) / 256)

/-- R145, R151: the three lanes, each on its own, with the same ratio. -/
def lerpColor (c0 c1 : Color) (ratio : Nat) : Color :=
  mkColor (lerp (red c0) (red c1) ratio) (lerp (green c0) (green c1) ratio) (lerp (blue c0) (blue c1) ratio)

/-- R146: `min(E + I, P)`, the sum formed exactly. -/
def advance (interval elapsed period : Nat) : Nat := min (elapsed + interval) period

/-- R141. -/
def tickSteady (p : Params) (s : State) : TickResult :=
  { nextSleep := p.steadySleep
    color := s.curC0
    forward := s.forward
    elapsed := s.elapsed }

/-- The ratio of a Blinky tick (R142 steps 1 and 2). -/
def tickRatio (s : State) : Nat := ratioOf s.forward (rawRatio s.elapsed s.curPeriod)

/-- R142: the flip is evaluated after the advance and overrides it (R147). -/
def tickBlinky (p : Params) (s : State) : TickResult :=
  { nextSleep := p.refreshInterval
    color := lerpColor s.curC0 s.curC1 (tickRatio s)
    forward := forwardAfter s.forward (tickRatio s)
    elapsed :=
      if flips s.forward (tickRatio s) then 0 else advance p.refreshInterval s.elapsed s.curPeriod }

/-- Where R140 to R142 give `tick` a result: under a Blinky, `1 <= P` and `E <= P` (R48, R142, R159). -/
def tickDefined (s : State) : Bool :=
  match s.curOp with
  | .steady => true
  | .blinky => decide (1 ≤ s.curPeriod) && decide (s.elapsed ≤ s.curPeriod)

/-- `tick` (R140), selected by `CUR_OP`. -/
def tick (p : Params) (s : State) : TickResult :=
  match s.curOp with
  | .steady => tickSteady p s
  | .blinky => tickBlinky p s

/-- What the TICK phase stores of a tick's result in the animation state (R140). -/
def storeTick (r : TickResult) (s : State) : State :=
  { s with
    frameColor := r.color
    sleepRem := r.nextSleep
    forward := r.forward
    elapsed := r.elapsed }

end Sys2Proof.Machine
end

