-- ==== Sys2Proof/Syntax.lean ====
section
/-! DEFINITION. The two commands, "the entire public surface" (spec/00_scope.md rule R2): one constructor per row of
spec/opcode_table.json. -/

namespace Sys2Proof

/-- A command, as R93 decodes it and R18 writes it. -/
inductive Instr where
  /-- `STEADY #RRGGBB` (R177): hold the colour `c`. The word's `C1` and `PERIOD` fields are ignored (R95) and are no
  part of the command. -/
  | steady (c : Color)
  /-- `BLINKY #RRGGBB, #RRGGBB, <period>` (R178): crossfade between two colours over `period` duration units, a
  "natural, 0 .. 2^DUR_W - 1" (R93). -/
  | blinky (color0 color1 : Color) (period : Nat)
deriving DecidableEq, Repr

/-- The pseudo-command `OFF` of R108: `STEADY #000000`. -/
def Instr.off : Instr := .steady 0#24

end Sys2Proof
end

