-- ==== Sys2Proof/WellFormed.lean ====
section
/-! DEFINITION. Which terms of `Instr` are commands of a block built with parameters `p`: the only constraint of the
command map (spec/30_encoding.md rules R96 and R105) is `PERIOD != 0` for `BLINKY`, and its `PERIOD` field holds what
fits in `DUR_W` bits (rules R91 and R107). -/

namespace Sys2Proof

open Sys2Proof.Config

/-- R105, R107: `STEADY` has no constraint; `BLINKY` needs `PERIOD != 0` and a period of `DUR_W` bits. -/
def Instr.wellFormed (p : Params) : Instr → Bool
  | .steady _ => true
  | .blinky _ _ period => period != 0 && decide (period < 2 ^ p.durW)

end Sys2Proof
end

