-- ==== Sys2Proof/Decode.lean ====
section
/-! DEFINITION. The command decoder and encoder, from the field table of spec/30_encoding.md rules R91 to R97, and the
command syntax of rules R107 and R108. -/

namespace Sys2Proof

open Sys2Proof.Config

/-- R15: the field `v[lo + width - 1 : lo]`, "read as a natural". -/
def bits (v lo width : Nat) : Nat := v / 2 ^ lo % 2 ^ width

/-- `OP`, bit `[DUR_W+48]` (R91): false is `STEADY`, true is `BLINKY` (R94). -/
def cmdOp (p : Params) (w : Nat) : Bool := bits w (p.durW + 48) 1 == 1

/-- `C0`, bits `[DUR_W+47 : DUR_W+24]` (R91). -/
def cmdC0 (p : Params) (w : Nat) : Color := BitVec.ofNat 24 (bits w (p.durW + 24) 24)

/-- `C1`, bits `[DUR_W+23 : DUR_W]` (R91). -/
def cmdC1 (p : Params) (w : Nat) : Color := BitVec.ofNat 24 (bits w p.durW 24)

/-- `PERIOD`, bits `[DUR_W-1 : 0]` (R91). -/
def cmdPeriod (p : Params) (w : Nat) : Nat := bits w 0 p.durW

/-- Why a number offered as a command is no command. -/
inductive DecodeReject where
  /-- The one illegal encoding, `OP = 1` with `PERIOD = 0` (R96). -/
  | blinkyPeriodZero
  /-- More than `CMD_W` bits: no word of the port, which has "no narrower or wider transfer" (R72, R98). -/
  | widerThanPort
deriving DecidableEq, Repr

/-- `decode_cmd` of R93, total on every `CMD_W`-bit word (R97); a number of more bits is no word. -/
def decode (p : Params) (w : Nat) : Except DecodeReject Instr :=
  if 2 ^ p.cmdW ≤ w then .error .widerThanPort
  else if cmdOp p w then
    if cmdPeriod p w = 0 then .error .blinkyPeriodZero
    else .ok (.blinky (cmdC0 p w) (cmdC1 p w) (cmdPeriod p w))
  else .ok (.steady (cmdC0 p w))

/-- A word with the given fields, most significant first (R91): `{op, c0, c1, period}`. -/
def packCmd (p : Params) (op : Bool) (c0 c1 : Color) (period : Nat) : Nat :=
  ((op.toNat * 2 ^ 24 + c0.toNat) * 2 ^ 24 + c1.toNat) * 2 ^ p.durW + period

/-- The encoder of R107, for well-formed commands: `STEADY` writes its ignored fields as 0 (R95). -/
def encode (p : Params) : Instr → Nat
  | .steady c => packCmd p false c 0#24 0
  | .blinky color0 color1 period => packCmd p true color0 color1 period

/-- The host's name for the decoder on a row of spec/opcode_table.json, which gives its words at the default `DUR_W`:
the low `nbits` bits of `w`, every bit above them 0. One command word is one whole unit on `cmd_data` (R72), so there is
no byte order to lay it out in. -/
def decodeTableWord (nbits w : Nat) : Option Instr :=
  (decode thisHardware (w % 2 ^ nbits)).toOption

/-! ### The command syntax of R107 and R108 -/

/-- The digits of R107, each at the place of its value, with the letters in one case. -/
def digitChars (letters : List Char) : List Char :=
  ['0', '1', '2', '3', '4', '5', '6', '7', '8', '9'] ++ letters

/-- A hexadecimal digit's value. Both letter cases are taken (log entry 13). -/
def hexDigit? (c : Char) : Option Nat :=
  ((digitChars ['A', 'B', 'C', 'D', 'E', 'F']).idxOf? c).or
    ((digitChars ['a', 'b', 'c', 'd', 'e', 'f']).idxOf? c)

/-- The value of a run of digits in a base, most significant first, continuing from `acc`. -/
def digits? (base : Nat) : List Char → Nat → Option Nat
  | [], acc => some acc
  | c :: cs, acc =>
    match hexDigit? c with
    | some d => if d < base then digits? base cs (acc * base + d) else none
    | none => none

/-- `<period>` of R107: a natural "written in decimal or with `0x`", of at least one digit. That `0x` is in lower case,
that leading zeros are read, and that the digits are not grouped with the `_` of R14's notation, are the model's choice:
R107 says none of it (log entry 13). -/
def natural? : List Char → Option Nat
  | '0' :: 'x' :: d :: ds => digits? 16 (d :: ds) 0
  | d :: ds => digits? 10 (d :: ds) 0
  | [] => none

/-- `#RRGGBB` of R107: six hexadecimal digits giving `{r, g, b}`; answers the colour and the text after it. -/
def color? : List Char → Option (Color × List Char)
  | '#' :: a :: b :: c :: d :: e :: f :: rest =>
    (digits? 16 [a, b, c, d, e, f] 0).map fun n => (BitVec.ofNat 24 n, rest)
  | _ => none

/-- The text after a given beginning, if the text begins so. -/
def after? (start : List Char) (text : List Char) : Option (List Char) :=
  if start.isPrefixOf text then some (text.drop start.length) else none

/-- The checks an assembler makes on `BLINKY` (R107): it "refuses `BLINKY` with period 0 and refuses a period that
does not fit in `DUR_W` bits". -/
def blinkyOf? (p : Params) (color0 color1 : Color) (period : Nat) : Option Instr :=
  if period = 0 ∨ 2 ^ p.durW ≤ period then none
  else some (.blinky color0 color1 period)

/-- One line of the syntax of R107 and R108, with single spaces as R107 writes them (log entry 13). -/
def parseCommand (p : Params) (text : List Char) : Option Instr :=
  if text = ['O', 'F', 'F'] then some Instr.off
  else match after? ['S', 'T', 'E', 'A', 'D', 'Y', ' '] text with
  | some t =>
    match color? t with
    | some (c, []) => some (.steady c)
    | _ => none
  | none =>
    match after? ['B', 'L', 'I', 'N', 'K', 'Y', ' '] text with
    | some t =>
      match color? t with
      | some (c0, ',' :: ' ' :: t1) =>
        match color? t1 with
        | some (c1, ',' :: ' ' :: t2) => (natural? t2).bind (blinkyOf? p c0 c1)
        | _ => none
      | _ => none
    | none => none

/-- The assembler of R107: text to command word. -/
def assemble (p : Params) (text : List Char) : Option Nat := (parseCommand p text).map (encode p)

end Sys2Proof
end

