-- ==== Sys2Proof/Machine/Ops.lean ====
section
/-! DEFINITION. The operations the meanings and the phases share: reading the input ports, the command queue and its
port (spec/42_command_channel.md rules R170 to R176), replacing the animation state (rule R179), taking the block's one
fault (spec/60_exceptions.md rule R242) and leaving it, which only reset does (spec/70_reset_and_hazards.md rule R270).
The block has no memory and no numbered registers (rules R31, R70), so there are no operations over them. -/

namespace Sys2Proof.Machine

open Sys2Proof.Config

/-! ### The outside world's moves -/

/-- The input ports in the coming cycle (log entry 1). -/
def currentIn (s : State) : PortIn :=
  match s.inputs with
  | i :: _ => i
  | [] => freeInputs s.cycle

/-- The cycle's inputs are used up. -/
def nextCycle (s : State) : State :=
  { s with inputs := s.inputs.tail, cycle := s.cycle + 1 }

/-! ### The command queue and its port -/

/-- `cmd_ready` (R55, R171), from the start-of-cycle queue. -/
def cmdReady (rst : Bool) (s : State) : Bool := decide (s.q.length < 2) && !rst

/-- The word on the `CMD_W` wires of `cmd_data` (R54, R72). -/
def portWord (p : Params) (i : PortIn) : Nat := i.cmdData % 2 ^ p.cmdW

/-- The word the command port accepts in this cycle (R172): both `cmd_valid` and `cmd_ready` are 1 (R54). -/
def accepted? (p : Params) (i : PortIn) (s : State) : Option Nat :=
  if i.cmdValid && cmdReady i.rst s then some (portWord p i) else none

/-- `Q.push` (R17, R172): the word, as accepted, at the tail. -/
def pushCommand (w : Nat) (s : State) : State := { s with q := s.q ++ [w] }

/-- Rejection (R173): the word is discarded, and only `CMD_REJECTED` shows it. -/
def rejectCommand (s : State) : State := { s with cmdRejected := true }

/-- What the command port does with an accepted word (R172, R173). -/
def acceptCommand (p : Params) (w : Nat) (s : State) : State :=
  match decode p w with
  | .ok _ => pushCommand w s
  | .error _ => rejectCommand s

/-- The command port's part of a cycle. Whether a word is accepted depends on the queue at the start of the cycle
(`start`); the word goes behind what the sequencer's pop has left (`s`) (R171, R176, R247). -/
def portStep (p : Params) (i : PortIn) (start s : State) : State :=
  match accepted? p i start with
  | some w => acceptCommand p w s
  | none => s

/-! ### Applying a command -/

/-- What applying any command writes (R177 to R179): the whole animation state, and the way back to TICK. -/
def replaceAnimation (op : CmdKind) (c0 c1 : Color) (period : Nat) (s : State) : State :=
  { s with
    curOp := op
    curC0 := c0
    curC1 := c1
    curPeriod := period
    forward := true
    elapsed := 0
    phase := .tick }

/-! ### The fault and the way out of it -/

/-- `raise Fault(cause)` (R17, R242): `PHASE <- HALT` and `FAULT_CAUSE`; every other register keeps its value. -/
def raiseFault (cause : FaultCause) (s : State) : State :=
  { s with phase := .halt, faultCause := cause }

/-- A reset cycle (R270): every register takes its reset value. It is the only way out of HALT (R244). The host's
coming moves are no register of the block, and stay. -/
def resetBlock (s : State) : State :=
  { State.reset with inputs := s.inputs, cycle := s.cycle }

end Sys2Proof.Machine
end

