-- ==== Sys2Proof/Machine/Commands.lean ====
section
/-! DEFINITION. The meanings of the two commands (spec/42_command_channel.md rules R177 to R179): what the RACE cycle
that pops a command's word writes. Popping the word is the RACE phase's own part (rule R207). -/

namespace Sys2Proof.Machine

/-- `STEADY #RRGGBB` (R177). -/
def execSteady (c : Color) (s : State) : Host.Outcome State Fault Refusal :=
  .next (replaceAnimation .steady c 0#24 0 s)

/-- `BLINKY #RRGGBB, #RRGGBB, <period>` (R178). A period-0 Blinky is "never applied": no command word stands for it
(R96), and the meaning refuses it by name (log entry 7). The decoder gives periods of `DUR_W` bits only (R93), which is
why the period fits its register (log entry 4). -/
def execBlinky (color0 color1 : Color) (period : Nat) (s : State) : Host.Outcome State Fault Refusal :=
  if period = 0 then .refused .blinkyPeriodZero
  else .next (replaceAnimation .blinky color0 color1 period s)

end Sys2Proof.Machine
end

