-- ==== Sys2Proof/Machine/Dispatch.lean ====
section
/-! DEFINITION. One arm per command: which meaning a command has. -/

namespace Sys2Proof.Machine

def exec (i : Instr) (s : State) : Host.Outcome State Fault Refusal :=
  match i with
  | .steady c => Sys2Proof.Machine.execSteady c s
  | .blinky color0 color1 period => Sys2Proof.Machine.execBlinky color0 color1 period s

end Sys2Proof.Machine
end

