-- ==== Sys2Proof/Machine/DriverLoop.lean ====
section
/-! DEFINITION. The driver loop of spec/43_driver_loop.md, cycle by cycle: one function per phase (rules R202 to R214),
and one clock cycle of the block (rules R16, R201, R247, R270). -/

namespace Sys2Proof.Machine

open Sys2Proof.Config

/-- TICK (R202). -/
def phaseTick (p : Params) (s : State) : Host.Outcome State Fault Refusal :=
  if tickDefined s then .next { storeTick (tick p s) s with codeIdx := 0#5, phase := .tx }
  else .refused .tickOutsideDomain

/-- TX (R203): in a cycle with `pc_ready = 1` the sink takes the offered code. -/
def phaseTx (i : PortIn) (s : State) : Host.Outcome State Fault Refusal :=
  if i.pcReady then
    if s.codeIdx = 24#5 then .next { s with phase := .txWait }
    else if s.codeIdx.toNat < 24 then .next { s with codeIdx := s.codeIdx + 1#5 }
    else .fault .noRowForCodeIndex
  else .next s

/-- TXWAIT (R205): the sink's completion response ends the wait. -/
def phaseTxWait (i : PortIn) (s : State) : Host.Outcome State Fault Refusal :=
  if i.txRespValid then
    if i.txRespFail then .next (raiseFault .txFail s)
    else .next { s with phase := .race }
  else .next s

/-- RACE (R207): a waiting command wins, then an expired timer, then the timer counts. -/
def phaseRace (p : Params) (i : PortIn) (s : State) : Host.Outcome State Fault Refusal :=
  match s.q with
  | w :: rest =>
    match decode p w with
    | .ok cmd => exec cmd { s with q := rest }
    | .error _ => .refused .illegalWordQueued
  | [] =>
    if s.sleepRem = 0 then .next { s with phase := .tick }
    else if i.timeTick then .next { s with sleepRem := s.sleepRem - 1 }
    else .next s

/-- HALT (R214): the sequencer makes no further change. -/
def phaseHalt (s : State) : Host.Outcome State Fault Refusal := .next s

/-- The sequencer's part of a cycle with `rst = 0` (R201). -/
def sequencer (p : Params) (i : PortIn) (s : State) : Host.Outcome State Fault Refusal :=
  match s.phase with
  | .tick => phaseTick p s
  | .tx => phaseTx i s
  | .txWait => phaseTxWait i s
  | .race => phaseRace p i s
  | .halt => phaseHalt s

/-- One clock cycle with the given input ports. `rst = 1` overrides everything (R247, R270). Otherwise the sequencer's
step and the command port's take effect together (R16, R247). -/
def clockCycle (p : Params) (i : PortIn) (s : State) : Host.Outcome State Fault Refusal :=
  if i.rst then .next (resetBlock s)
  else match sequencer p i s with
  | .next t => .next (portStep p i s t)
  | .fault r => .fault r
  | .refused r => .refused r

/-- One step of the block built with parameters `p`: the clock cycle whose inputs the state holds. -/
def clockStep (p : Params) (s : State) : Host.Outcome State Fault Refusal :=
  match clockCycle p (currentIn s) s with
  | .next t => .next (nextCycle t)
  | .fault r => .fault r
  | .refused r => .refused r

end Sys2Proof.Machine
end

