-- ==== Sys2Proof/Machine/Step.lean ====
section
/-! DEFINITION. One step of this hardware, and how the host places the command that the very next step runs. -/

namespace Sys2Proof.Machine

open Sys2Proof.Config

/-- One clock cycle of the block built with the default parameters (R9, R10). -/
def step (s : State) : Host.Outcome State Fault Refusal := clockStep thisHardware s

/-- The command word of table row bits `w`, where the next step runs it (log entry 12). A command runs in the RACE cycle
that pops it (R207), so a legal word becomes the head of the queue, the phase is RACE, and the coming cycle is one in
which the outside world does nothing. An illegal word can never stand in the queue (R173): it is offered at the command
port of an empty queue, where the next step meets it. A number wider than the port is no transfer (R72), and there is
nowhere to place it. -/
def State.withFetchWord (s : State) (nbits w : Nat) : State :=
  match decode thisHardware (w % 2 ^ nbits) with
  | .ok _ =>
    { s with
      phase := .race
      q := (w % 2 ^ nbits) :: s.q.tail
      inputs := PortIn.quiet :: s.inputs.tail }
  | .error .blinkyPeriodZero =>
    { s with
      q := []
      inputs := { PortIn.quiet with cmdValid := true, cmdData := (w % 2 ^ nbits) } :: s.inputs.tail }
  | .error .widerThanPort => s

end Sys2Proof.Machine
end

