-- ==== Sys2Proof/Machine/PulseEncoder.lean ====
section
/-! DEFINITION. The pulse encoder of spec/40_pulse_encoder.md: the three codes, `encode_bit`, `encode_byte`,
`encode_frame`, `frame_code`, and the 32-bit word of a code (spec/30_encoding.md rule R100). -/

namespace Sys2Proof.Machine

open Sys2Proof.Config

/-- A pulse code `{level1, length1, level2, length2}` (R18, R100, R120). Lengths are "counts of peripheral clock
cycles". -/
structure PulseCode where
  level1 : Bool
  length1 : Nat
  level2 : Bool
  length2 : Nat
deriving DecidableEq, Repr

/-- The `PULSE` word (R100): `{level2, zext_15(length2), level1, zext_15(length1)}`. -/
def pulseWord (c : PulseCode) : PulseWord :=
  BitVec.ofBool c.level2 ++ BitVec.ofNat lenW c.length2 ++ BitVec.ofBool c.level1 ++ BitVec.ofNat lenW c.length1

/-- R121. -/
def oneCode (p : Params) : PulseCode := ⟨true, p.longCycles, false, p.shortCycles⟩

/-- R122. -/
def zeroCode (p : Params) : PulseCode := ⟨true, p.shortCycles, false, p.longCycles⟩

/-- R123. -/
def resetCode (p : Params) : PulseCode := ⟨false, p.resetCycles, false, 0⟩

/-- `encode_bit` (R124). -/
def encodeBit (p : Params) (x : Bool) : PulseCode := if x then oneCode p else zeroCode p

/-- `encode_byte` (R125): element `k` encodes bit `7 - k`. -/
def encodeByte (p : Params) (b : Byte) : List PulseCode :=
  (List.range 8).map fun k => encodeBit p (b.getLsbD (7 - k))

/-- `encode_frame` (R126): green, red, blue, then RESET. -/
def encodeFrame (p : Params) (c : Color) : List PulseCode :=
  encodeByte p (green c) ++ encodeByte p (red c) ++ encodeByte p (blue c) ++ [resetCode p]

/-- `frame_code` (R127), the form the block's logic computes, with RESET for the indexes 25 to 31 it never offers. -/
def frameCode (p : Params) (c : Color) (i : BitVec 5) : PulseCode :=
  if i.toNat ≤ 7 then encodeBit p ((green c).getLsbD (7 - i.toNat))
  else if i.toNat ≤ 15 then encodeBit p ((red c).getLsbD (15 - i.toNat))
  else if i.toNat ≤ 23 then encodeBit p ((blue c).getLsbD (23 - i.toNat))
  else resetCode p

/-- How many peripheral clock cycles a code takes on the wire (R120). -/
def codeCycles (c : PulseCode) : Nat := c.length1 + c.length2

/-- Eight data codes read back as a byte, first code first: "a data code with `length1 = LONG_CYCLES` is a 1 bit"
(R129). -/
def byteOfCodes (p : Params) (codes : List PulseCode) : Byte :=
  BitVec.ofNat 8 (codes.foldl (fun acc c => 2 * acc + if c.length1 = p.longCycles then 1 else 0) 0)

/-- A frame read back as its colour (R129): green, red and blue in wire order. -/
def colorOfFrame (p : Params) (codes : List PulseCode) : Color :=
  mkColor (byteOfCodes p ((codes.drop 8).take 8)) (byteOfCodes p (codes.take 8))
    (byteOfCodes p ((codes.drop 16).take 8))

end Sys2Proof.Machine
end

