-- ==== Sys2Proof/Laws/PulseEncoder.lean ====
section
/-! SUPPORT. The small facts of the pulse encoder and of the colour lanes. -/

namespace Sys2Proof.Machine

open Sys2Proof.Config

@[simp] theorem red_mkColor (r g b : Byte) : red (mkColor r g b) = r := by
  ext i hi
  simp only [red, mkColor, BitVec.getElem_extractLsb', BitVec.getLsbD_append]
  grind

@[simp] theorem green_mkColor (r g b : Byte) : green (mkColor r g b) = g := by
  ext i hi
  simp only [green, mkColor, BitVec.getElem_extractLsb', BitVec.getLsbD_append]
  grind

@[simp] theorem blue_mkColor (r g b : Byte) : blue (mkColor r g b) = b := by
  ext i hi
  simp only [blue, mkColor, BitVec.getElem_extractLsb', BitVec.getLsbD_append]
  grind

/-- A colour is its three channels and nothing else. -/
@[simp] theorem mkColor_lanes (c : Color) : mkColor (red c) (green c) (blue c) = c := by
  apply BitVec.eq_of_getLsbD_eq
  intro i hi
  simp only [mkColor, red, green, blue, BitVec.getLsbD_append, BitVec.getLsbD_extractLsb']
  grind

@[simp] theorem encodeByte_length (p : Params) (b : Byte) : (encodeByte p b).length = 8 := by
  simp [encodeByte]

@[simp] theorem encodeFrame_length (p : Params) (c : Color) : (encodeFrame p c).length = 25 := by
  simp [encodeFrame]

theorem encodeByte_getElem? (p : Params) (b : Byte) {k : Nat} (h : k < 8) :
    (encodeByte p b)[k]? = some (encodeBit p (b.getLsbD (7 - k))) := by
  simp [encodeByte, h]

end Sys2Proof.Machine
end

