-- ==== Sys2Proof/Laws/State.lean ====
section
/-! SUPPORT. One lemma per field of State and per named update, each true by rfl, so that no proof unfolds a record
update. -/

namespace Sys2Proof.Machine

/-! ### nextCycle -/

@[simp] theorem nextCycle_phase (s : State) : (nextCycle s).phase = s.phase := rfl
@[simp] theorem nextCycle_curOp (s : State) : (nextCycle s).curOp = s.curOp := rfl
@[simp] theorem nextCycle_curC0 (s : State) : (nextCycle s).curC0 = s.curC0 := rfl
@[simp] theorem nextCycle_curC1 (s : State) : (nextCycle s).curC1 = s.curC1 := rfl
@[simp] theorem nextCycle_curPeriod (s : State) : (nextCycle s).curPeriod = s.curPeriod := rfl
@[simp] theorem nextCycle_forward (s : State) : (nextCycle s).forward = s.forward := rfl
@[simp] theorem nextCycle_elapsed (s : State) : (nextCycle s).elapsed = s.elapsed := rfl
@[simp] theorem nextCycle_frameColor (s : State) : (nextCycle s).frameColor = s.frameColor := rfl
@[simp] theorem nextCycle_sleepRem (s : State) : (nextCycle s).sleepRem = s.sleepRem := rfl
@[simp] theorem nextCycle_codeIdx (s : State) : (nextCycle s).codeIdx = s.codeIdx := rfl
@[simp] theorem nextCycle_q (s : State) : (nextCycle s).q = s.q := rfl
@[simp] theorem nextCycle_faultCause (s : State) : (nextCycle s).faultCause = s.faultCause := rfl
@[simp] theorem nextCycle_cmdRejected (s : State) : (nextCycle s).cmdRejected = s.cmdRejected := rfl
@[simp] theorem nextCycle_inputs (s : State) : (nextCycle s).inputs = s.inputs.tail := rfl
@[simp] theorem nextCycle_cycle (s : State) : (nextCycle s).cycle = s.cycle + 1 := rfl

/-! ### pushCommand -/

@[simp] theorem pushCommand_phase (w : Nat) (s : State) : (pushCommand w s).phase = s.phase := rfl
@[simp] theorem pushCommand_curOp (w : Nat) (s : State) : (pushCommand w s).curOp = s.curOp := rfl
@[simp] theorem pushCommand_curC0 (w : Nat) (s : State) : (pushCommand w s).curC0 = s.curC0 := rfl
@[simp] theorem pushCommand_curC1 (w : Nat) (s : State) : (pushCommand w s).curC1 = s.curC1 := rfl
@[simp] theorem pushCommand_curPeriod (w : Nat) (s : State) : (pushCommand w s).curPeriod = s.curPeriod := rfl
@[simp] theorem pushCommand_forward (w : Nat) (s : State) : (pushCommand w s).forward = s.forward := rfl
@[simp] theorem pushCommand_elapsed (w : Nat) (s : State) : (pushCommand w s).elapsed = s.elapsed := rfl
@[simp] theorem pushCommand_frameColor (w : Nat) (s : State) : (pushCommand w s).frameColor = s.frameColor := rfl
@[simp] theorem pushCommand_sleepRem (w : Nat) (s : State) : (pushCommand w s).sleepRem = s.sleepRem := rfl
@[simp] theorem pushCommand_codeIdx (w : Nat) (s : State) : (pushCommand w s).codeIdx = s.codeIdx := rfl
@[simp] theorem pushCommand_q (w : Nat) (s : State) : (pushCommand w s).q = s.q ++ [w] := rfl
@[simp] theorem pushCommand_faultCause (w : Nat) (s : State) : (pushCommand w s).faultCause = s.faultCause := rfl
@[simp] theorem pushCommand_cmdRejected (w : Nat) (s : State) : (pushCommand w s).cmdRejected = s.cmdRejected := rfl
@[simp] theorem pushCommand_inputs (w : Nat) (s : State) : (pushCommand w s).inputs = s.inputs := rfl
@[simp] theorem pushCommand_cycle (w : Nat) (s : State) : (pushCommand w s).cycle = s.cycle := rfl

/-! ### rejectCommand -/

@[simp] theorem rejectCommand_phase (s : State) : (rejectCommand s).phase = s.phase := rfl
@[simp] theorem rejectCommand_curOp (s : State) : (rejectCommand s).curOp = s.curOp := rfl
@[simp] theorem rejectCommand_curC0 (s : State) : (rejectCommand s).curC0 = s.curC0 := rfl
@[simp] theorem rejectCommand_curC1 (s : State) : (rejectCommand s).curC1 = s.curC1 := rfl
@[simp] theorem rejectCommand_curPeriod (s : State) : (rejectCommand s).curPeriod = s.curPeriod := rfl
@[simp] theorem rejectCommand_forward (s : State) : (rejectCommand s).forward = s.forward := rfl
@[simp] theorem rejectCommand_elapsed (s : State) : (rejectCommand s).elapsed = s.elapsed := rfl
@[simp] theorem rejectCommand_frameColor (s : State) : (rejectCommand s).frameColor = s.frameColor := rfl
@[simp] theorem rejectCommand_sleepRem (s : State) : (rejectCommand s).sleepRem = s.sleepRem := rfl
@[simp] theorem rejectCommand_codeIdx (s : State) : (rejectCommand s).codeIdx = s.codeIdx := rfl
@[simp] theorem rejectCommand_q (s : State) : (rejectCommand s).q = s.q := rfl
@[simp] theorem rejectCommand_faultCause (s : State) : (rejectCommand s).faultCause = s.faultCause := rfl
@[simp] theorem rejectCommand_cmdRejected (s : State) : (rejectCommand s).cmdRejected = true := rfl
@[simp] theorem rejectCommand_inputs (s : State) : (rejectCommand s).inputs = s.inputs := rfl
@[simp] theorem rejectCommand_cycle (s : State) : (rejectCommand s).cycle = s.cycle := rfl

/-! ### replaceAnimation -/

@[simp] theorem replaceAnimation_phase (op : CmdKind) (c0 c1 : Color) (period : Nat) (s : State) : (replaceAnimation op c0 c1 period s).phase = .tick := rfl
@[simp] theorem replaceAnimation_curOp (op : CmdKind) (c0 c1 : Color) (period : Nat) (s : State) : (replaceAnimation op c0 c1 period s).curOp = op := rfl
@[simp] theorem replaceAnimation_curC0 (op : CmdKind) (c0 c1 : Color) (period : Nat) (s : State) : (replaceAnimation op c0 c1 period s).curC0 = c0 := rfl
@[simp] theorem replaceAnimation_curC1 (op : CmdKind) (c0 c1 : Color) (period : Nat) (s : State) : (replaceAnimation op c0 c1 period s).curC1 = c1 := rfl
@[simp] theorem replaceAnimation_curPeriod (op : CmdKind) (c0 c1 : Color) (period : Nat) (s : State) : (replaceAnimation op c0 c1 period s).curPeriod = period := rfl
@[simp] theorem replaceAnimation_forward (op : CmdKind) (c0 c1 : Color) (period : Nat) (s : State) : (replaceAnimation op c0 c1 period s).forward = true := rfl
@[simp] theorem replaceAnimation_elapsed (op : CmdKind) (c0 c1 : Color) (period : Nat) (s : State) : (replaceAnimation op c0 c1 period s).elapsed = 0 := rfl
@[simp] theorem replaceAnimation_frameColor (op : CmdKind) (c0 c1 : Color) (period : Nat) (s : State) : (replaceAnimation op c0 c1 period s).frameColor = s.frameColor := rfl
@[simp] theorem replaceAnimation_sleepRem (op : CmdKind) (c0 c1 : Color) (period : Nat) (s : State) : (replaceAnimation op c0 c1 period s).sleepRem = s.sleepRem := rfl
@[simp] theorem replaceAnimation_codeIdx (op : CmdKind) (c0 c1 : Color) (period : Nat) (s : State) : (replaceAnimation op c0 c1 period s).codeIdx = s.codeIdx := rfl
@[simp] theorem replaceAnimation_q (op : CmdKind) (c0 c1 : Color) (period : Nat) (s : State) : (replaceAnimation op c0 c1 period s).q = s.q := rfl
@[simp] theorem replaceAnimation_faultCause (op : CmdKind) (c0 c1 : Color) (period : Nat) (s : State) : (replaceAnimation op c0 c1 period s).faultCause = s.faultCause := rfl
@[simp] theorem replaceAnimation_cmdRejected (op : CmdKind) (c0 c1 : Color) (period : Nat) (s : State) : (replaceAnimation op c0 c1 period s).cmdRejected = s.cmdRejected := rfl
@[simp] theorem replaceAnimation_inputs (op : CmdKind) (c0 c1 : Color) (period : Nat) (s : State) : (replaceAnimation op c0 c1 period s).inputs = s.inputs := rfl
@[simp] theorem replaceAnimation_cycle (op : CmdKind) (c0 c1 : Color) (period : Nat) (s : State) : (replaceAnimation op c0 c1 period s).cycle = s.cycle := rfl

/-! ### raiseFault -/

@[simp] theorem raiseFault_phase (cause : FaultCause) (s : State) : (raiseFault cause s).phase = .halt := rfl
@[simp] theorem raiseFault_curOp (cause : FaultCause) (s : State) : (raiseFault cause s).curOp = s.curOp := rfl
@[simp] theorem raiseFault_curC0 (cause : FaultCause) (s : State) : (raiseFault cause s).curC0 = s.curC0 := rfl
@[simp] theorem raiseFault_curC1 (cause : FaultCause) (s : State) : (raiseFault cause s).curC1 = s.curC1 := rfl
@[simp] theorem raiseFault_curPeriod (cause : FaultCause) (s : State) : (raiseFault cause s).curPeriod = s.curPeriod := rfl
@[simp] theorem raiseFault_forward (cause : FaultCause) (s : State) : (raiseFault cause s).forward = s.forward := rfl
@[simp] theorem raiseFault_elapsed (cause : FaultCause) (s : State) : (raiseFault cause s).elapsed = s.elapsed := rfl
@[simp] theorem raiseFault_frameColor (cause : FaultCause) (s : State) : (raiseFault cause s).frameColor = s.frameColor := rfl
@[simp] theorem raiseFault_sleepRem (cause : FaultCause) (s : State) : (raiseFault cause s).sleepRem = s.sleepRem := rfl
@[simp] theorem raiseFault_codeIdx (cause : FaultCause) (s : State) : (raiseFault cause s).codeIdx = s.codeIdx := rfl
@[simp] theorem raiseFault_q (cause : FaultCause) (s : State) : (raiseFault cause s).q = s.q := rfl
@[simp] theorem raiseFault_faultCause (cause : FaultCause) (s : State) : (raiseFault cause s).faultCause = cause := rfl
@[simp] theorem raiseFault_cmdRejected (cause : FaultCause) (s : State) : (raiseFault cause s).cmdRejected = s.cmdRejected := rfl
@[simp] theorem raiseFault_inputs (cause : FaultCause) (s : State) : (raiseFault cause s).inputs = s.inputs := rfl
@[simp] theorem raiseFault_cycle (cause : FaultCause) (s : State) : (raiseFault cause s).cycle = s.cycle := rfl

/-! ### resetBlock -/

@[simp] theorem resetBlock_phase (s : State) : (resetBlock s).phase = .tick := rfl
@[simp] theorem resetBlock_curOp (s : State) : (resetBlock s).curOp = .steady := rfl
@[simp] theorem resetBlock_curC0 (s : State) : (resetBlock s).curC0 = 0#24 := rfl
@[simp] theorem resetBlock_curC1 (s : State) : (resetBlock s).curC1 = 0#24 := rfl
@[simp] theorem resetBlock_curPeriod (s : State) : (resetBlock s).curPeriod = 0 := rfl
@[simp] theorem resetBlock_forward (s : State) : (resetBlock s).forward = true := rfl
@[simp] theorem resetBlock_elapsed (s : State) : (resetBlock s).elapsed = 0 := rfl
@[simp] theorem resetBlock_frameColor (s : State) : (resetBlock s).frameColor = 0#24 := rfl
@[simp] theorem resetBlock_sleepRem (s : State) : (resetBlock s).sleepRem = 0 := rfl
@[simp] theorem resetBlock_codeIdx (s : State) : (resetBlock s).codeIdx = 0#5 := rfl
@[simp] theorem resetBlock_q (s : State) : (resetBlock s).q = [] := rfl
@[simp] theorem resetBlock_faultCause (s : State) : (resetBlock s).faultCause = .none := rfl
@[simp] theorem resetBlock_cmdRejected (s : State) : (resetBlock s).cmdRejected = false := rfl
@[simp] theorem resetBlock_inputs (s : State) : (resetBlock s).inputs = s.inputs := rfl
@[simp] theorem resetBlock_cycle (s : State) : (resetBlock s).cycle = s.cycle := rfl

/-! ### storeTick -/

@[simp] theorem storeTick_phase (r : TickResult) (s : State) : (storeTick r s).phase = s.phase := rfl
@[simp] theorem storeTick_curOp (r : TickResult) (s : State) : (storeTick r s).curOp = s.curOp := rfl
@[simp] theorem storeTick_curC0 (r : TickResult) (s : State) : (storeTick r s).curC0 = s.curC0 := rfl
@[simp] theorem storeTick_curC1 (r : TickResult) (s : State) : (storeTick r s).curC1 = s.curC1 := rfl
@[simp] theorem storeTick_curPeriod (r : TickResult) (s : State) : (storeTick r s).curPeriod = s.curPeriod := rfl
@[simp] theorem storeTick_forward (r : TickResult) (s : State) : (storeTick r s).forward = r.forward := rfl
@[simp] theorem storeTick_elapsed (r : TickResult) (s : State) : (storeTick r s).elapsed = r.elapsed := rfl
@[simp] theorem storeTick_frameColor (r : TickResult) (s : State) : (storeTick r s).frameColor = r.color := rfl
@[simp] theorem storeTick_sleepRem (r : TickResult) (s : State) : (storeTick r s).sleepRem = r.nextSleep := rfl
@[simp] theorem storeTick_codeIdx (r : TickResult) (s : State) : (storeTick r s).codeIdx = s.codeIdx := rfl
@[simp] theorem storeTick_q (r : TickResult) (s : State) : (storeTick r s).q = s.q := rfl
@[simp] theorem storeTick_faultCause (r : TickResult) (s : State) : (storeTick r s).faultCause = s.faultCause := rfl
@[simp] theorem storeTick_cmdRejected (r : TickResult) (s : State) : (storeTick r s).cmdRejected = s.cmdRejected := rfl
@[simp] theorem storeTick_inputs (r : TickResult) (s : State) : (storeTick r s).inputs = s.inputs := rfl
@[simp] theorem storeTick_cycle (r : TickResult) (s : State) : (storeTick r s).cycle = s.cycle := rfl

end Sys2Proof.Machine
end

