-- ==== Sys2Proof/Laws/Animation.lean ====
section
/-! SUPPORT. The small facts of a tick. -/

namespace Sys2Proof.Machine

open Sys2Proof.Config

theorem tick_steady (p : Params) {s : State} (h : s.curOp = .steady) : tick p s = tickSteady p s := by
  simp [tick, h]

theorem tick_blinky (p : Params) {s : State} (h : s.curOp = .blinky) : tick p s = tickBlinky p s := by
  simp [tick, h]

/-- The advance fits the register whatever the interval: the minimum keeps it at or below the period (R149). -/
theorem advance_le_period (interval elapsed period : Nat) : advance interval elapsed period ≤ period :=
  Nat.min_le_right _ _

/-- `E * 256 // P` is 256 at most, where `E <= P` (R150). -/
theorem rawRatio_le {elapsed period : Nat} (h : elapsed ≤ period) : rawRatio elapsed period ≤ 256 := by
  rcases Nat.eq_zero_or_pos period with rfl | hp
  · simp [rawRatio]
  · exact (Nat.div_le_iff_le_mul_add_pred hp).mpr (by nlinarith)

theorem tickDefined_steady {s : State} (h : s.curOp = .steady) : tickDefined s = true := by
  simp [tickDefined, h]

theorem tickDefined_blinky {s : State} (h : s.curOp = .blinky) :
    tickDefined s = true ↔ 1 ≤ s.curPeriod ∧ s.elapsed ≤ s.curPeriod := by
  simp [tickDefined, h]

end Sys2Proof.Machine
end

