-- ==== Sys2Proof/Laws/Encoding.lean ====
section
/-! SUPPORT. The fields of a packed command word, and everything `decode` can answer. -/

namespace Sys2Proof

open Sys2Proof.Config

/-! ### Fields of naturals (R15) -/

/-- A field above the low `d` bits is a field of what stands above them. -/
theorem bits_add (v d lo width : Nat) : bits v (d + lo) width = bits (v / 2 ^ d) lo width := by
  rw [bits, bits, Nat.pow_add, Nat.div_div_eq_div_mul]

theorem bits_above (v d width : Nat) : bits v d width = v / 2 ^ d % 2 ^ width := rfl

theorem bits_low (v width : Nat) : bits v 0 width = v % 2 ^ width := by
  rw [bits, Nat.pow_zero, Nat.div_one]

theorem bits_lt (v lo width : Nat) : bits v lo width < 2 ^ width := Nat.mod_lt _ (Nat.two_pow_pos _)

/-- A field of one bit, as the truth value R94 reads it for, is the number it is. -/
theorem bit_toNat (v lo : Nat) : (bits v lo 1 == 1).toNat = bits v lo 1 := by
  have := bits_lt v lo 1
  rcases (by omega : bits v lo 1 = 0 ∨ bits v lo 1 = 1) with h | h <;> rw [h] <;> rfl

/-- What stands above the low field of a concatenation. -/
theorem concat_div {high low d : Nat} (h : low < 2 ^ d) : (high * 2 ^ d + low) / 2 ^ d = high := by
  rw [Nat.mul_comm, Nat.mul_add_div (Nat.two_pow_pos d), Nat.div_eq_of_lt h, Nat.add_zero]

/-- The low field of a concatenation. -/
theorem concat_mod {high low d : Nat} (h : low < 2 ^ d) : (high * 2 ^ d + low) % 2 ^ d = low := by
  rw [Nat.mul_comm, Nat.mul_add_mod, Nat.mod_eq_of_lt h]

/-- Any number is what stands above its low field, and that field. -/
theorem concat_split (v d : Nat) : v / 2 ^ d * 2 ^ d + v % 2 ^ d = v := by
  rw [Nat.mul_comm]
  exact Nat.div_add_mod v (2 ^ d)

/-! ### The word of given fields, and the fields of a word -/

section
variable {p : Params} (op : Bool) (c0 c1 : Color) {period : Nat} (h : period < 2 ^ p.durW)
include h

theorem packCmd_lt : packCmd p op c0 c1 period < 2 ^ p.cmdW := by
  have h0 := c0.isLt
  have h1 := c1.isLt
  have hop := Bool.toNat_lt op
  have hhead : (op.toNat * 2 ^ 24 + c0.toNat) * 2 ^ 24 + c1.toNat < 2 ^ 49 := by omega
  rw [packCmd, Params.cmdW, Nat.add_comm p.durW, Nat.pow_add]
  calc _ < (((op.toNat * 2 ^ 24 + c0.toNat) * 2 ^ 24 + c1.toNat) + 1) * 2 ^ p.durW := by
        rw [Nat.succ_mul]
        exact Nat.add_lt_add_left h _
    _ ≤ 2 ^ 49 * 2 ^ p.durW := Nat.mul_le_mul_right _ hhead

theorem cmdOp_packCmd : cmdOp p (packCmd p op c0 c1 period) = op := by
  have h0 := c0.isLt
  have h1 := c1.isLt
  rw [cmdOp, bits_add, packCmd, concat_div h]
  cases op <;> simp [bits] <;> omega

theorem cmdC0_packCmd : cmdC0 p (packCmd p op c0 c1 period) = c0 := by
  have h0 := c0.isLt
  have h1 := c1.isLt
  apply BitVec.eq_of_toNat_eq
  rw [cmdC0, bits_add, packCmd, concat_div h]
  simp only [bits, BitVec.toNat_ofNat]
  omega

theorem cmdC1_packCmd : cmdC1 p (packCmd p op c0 c1 period) = c1 := by
  have h1 := c1.isLt
  apply BitVec.eq_of_toNat_eq
  rw [cmdC1, bits_above, packCmd, concat_div h, BitVec.toNat_ofNat]
  omega

theorem cmdPeriod_packCmd : cmdPeriod p (packCmd p op c0 c1 period) = period := by
  rw [cmdPeriod, bits_low, packCmd, concat_mod h]

end

theorem cmdPeriod_lt (p : Params) (w : Nat) : cmdPeriod p w < 2 ^ p.durW := bits_lt w 0 p.durW

/-- A word of `CMD_W` bits is the four fields of R91 and nothing else. -/
theorem packCmd_fields {p : Params} {w : Nat} (h : w < 2 ^ p.cmdW) :
    packCmd p (cmdOp p w) (cmdC0 p w) (cmdC1 p w) (cmdPeriod p w) = w := by
  have hhead : w / 2 ^ p.durW < 2 ^ 49 := by
    rw [Nat.div_lt_iff_lt_mul (Nat.two_pow_pos _), ← Nat.pow_add, Nat.add_comm]
    exact h
  conv_rhs => rw [← concat_split w p.durW]
  rw [packCmd, cmdOp, cmdC0, cmdC1, cmdPeriod, bits_add, bits_add, bits_above _ p.durW, bits_low]
  generalize w / 2 ^ p.durW = v at hhead
  congr 2
  rw [bit_toNat]
  simp only [bits, BitVec.toNat_ofNat]
  omega

/-! ### Decoding -/

section
variable {p : Params} {w : Nat}

theorem decode_wide (h : 2 ^ p.cmdW ≤ w) : decode p w = .error .widerThanPort := by
  rw [decode, if_pos h]

theorem decode_steady (hw : w < 2 ^ p.cmdW) (h : cmdOp p w = false) : decode p w = .ok (.steady (cmdC0 p w)) := by
  rw [decode, if_neg (Nat.not_le.mpr hw), if_neg (by simp [h])]

theorem decode_blinky (hw : w < 2 ^ p.cmdW) (h : cmdOp p w = true) (hp : cmdPeriod p w ≠ 0) :
    decode p w = .ok (.blinky (cmdC0 p w) (cmdC1 p w) (cmdPeriod p w)) := by
  rw [decode, if_neg (Nat.not_le.mpr hw), if_pos h, if_neg hp]

theorem decode_illegal (hw : w < 2 ^ p.cmdW) (h : cmdOp p w = true) (hp : cmdPeriod p w = 0) :
    decode p w = .error .blinkyPeriodZero := by
  rw [decode, if_neg (Nat.not_le.mpr hw), if_pos h, if_pos hp]

/-- Everything `decode` answers with a command for. -/
theorem decode_ok_iff (p : Params) (w : Nat) (i : Instr) :
    decode p w = .ok i ↔
      w < 2 ^ p.cmdW ∧
        ((cmdOp p w = false ∧ i = .steady (cmdC0 p w)) ∨
          (cmdOp p w = true ∧ cmdPeriod p w ≠ 0 ∧ i = .blinky (cmdC0 p w) (cmdC1 p w) (cmdPeriod p w))) := by
  rcases Nat.lt_or_ge w (2 ^ p.cmdW) with hw | hw
  · cases hop : cmdOp p w with
    | false => simp [decode_steady hw hop, hw, @eq_comm _ i]
    | true =>
      rcases eq_or_ne (cmdPeriod p w) 0 with hp | hp
      · simp [decode_illegal hw hop hp, hp]
      · rw [decode_blinky hw hop hp]
        simp [hw, hp, @eq_comm _ i]
  · simp [decode_wide hw, Nat.not_lt.mpr hw]

/-- The one way `decode` rejects a word of the port (R96). -/
theorem decode_error_iff (hw : w < 2 ^ p.cmdW) (e : DecodeReject) :
    decode p w = .error e ↔ cmdOp p w = true ∧ cmdPeriod p w = 0 ∧ e = .blinkyPeriodZero := by
  cases hop : cmdOp p w with
  | false => simp [decode_steady hw hop]
  | true =>
    rcases eq_or_ne (cmdPeriod p w) 0 with hp | hp
    · simp [decode_illegal hw hop hp, hp, @eq_comm _ e]
    · rw [decode_blinky hw hop hp]
      simp [hp]

/-- What decoding answers is well formed. -/
theorem decode_wellFormed {i : Instr} (h : decode p w = .ok i) : i.wellFormed p = true := by
  obtain ⟨-, ⟨-, rfl⟩ | ⟨-, hp, rfl⟩⟩ := (decode_ok_iff p w i).mp h
  · rfl
  · simpa [Instr.wellFormed, cmdPeriod_lt] using hp

/-- A word that the queue may hold (R43, R49) is one that decodes. -/
theorem exists_decode_iff (p : Params) (w : Nat) :
    (∃ i, decode p w = .ok i) ↔ w < 2 ^ p.cmdW ∧ (cmdOp p w = true → cmdPeriod p w ≠ 0) := by
  simp only [decode_ok_iff]
  cases cmdOp p w <;> simp

end

end Sys2Proof
end

