-- ==== Sys2Proof/Laws/Commands.lean ====
section
/-! SUPPORT. Everything the meanings of the commands can do. -/

namespace Sys2Proof.Machine

open Sys2Proof.Config

@[simp] theorem exec_steady (c : Color) (s : State) :
    exec (.steady c) s = .next (replaceAnimation .steady c 0#24 0 s) := rfl

theorem exec_blinky {period : Nat} (h : period ≠ 0) (c0 c1 : Color) (s : State) :
    exec (.blinky c0 c1 period) s = .next (replaceAnimation .blinky c0 c1 period s) := by
  rw [exec, execBlinky, if_neg h]

theorem exec_blinky_zero (c0 c1 : Color) (s : State) :
    exec (.blinky c0 c1 0) s = .refused .blinkyPeriodZero := rfl

/-- The inversion of `exec`: a next state is the one the command's rule writes (R177, R178). -/
theorem exec_next_iff (i : Instr) (s t : State) :
    exec i s = .next t ↔
      (∃ c, i = .steady c ∧ t = replaceAnimation .steady c 0#24 0 s) ∨
      (∃ c0 c1 period, i = .blinky c0 c1 period ∧ period ≠ 0 ∧
        t = replaceAnimation .blinky c0 c1 period s) := by
  cases i with
  | steady c => simp [@eq_comm _ t]
  | blinky c0 c1 period =>
    rcases eq_or_ne period 0 with rfl | h
    · rw [exec_blinky_zero]
      simp
    · simp only [exec_blinky h, Host.Outcome.next.injEq]
      constructor
      · rintro rfl
        exact .inr ⟨c0, c1, period, rfl, h, rfl⟩
      · rintro (⟨c, hc, -⟩ | ⟨a, b, p, hi, -, rfl⟩)
        · cases hc
        · cases hi; rfl

/-- A decoded command always has a next state. -/
theorem exec_of_decode {p : Params} {w : Nat} {i : Instr} (h : decode p w = .ok i) (s : State) :
    ∃ t, exec i s = .next t := by
  obtain ⟨-, ⟨-, rfl⟩ | ⟨-, hp, rfl⟩⟩ := (decode_ok_iff p w i).mp h
  · exact ⟨_, rfl⟩
  · exact ⟨_, exec_blinky hp _ _ s⟩

end Sys2Proof.Machine
end

