-- ==== Sys2Proof/Machine/Outputs.lean ====
section
/-! DEFINITION. The output ports (spec/10_state.md rules R54 and R55) and the handshakes on them. -/

namespace Sys2Proof.Machine

open Sys2Proof.Config

/-- The output ports of R54 in one cycle. -/
structure PortOut where
  /-- `cmd_ready` -/
  cmdReady : Bool
  /-- `pc_valid` -/
  pcValid : Bool
  /-- `pc_data` -/
  pcData : PulseWord
  /-- `pc_last` -/
  pcLast : Bool
  /-- `tx_resp_ready` -/
  txRespReady : Bool
  /-- `halted` -/
  halted : Bool
  /-- `fault_cause` -/
  faultCause : BitVec 2
  /-- `cmd_rejected` -/
  cmdRejected : Bool
deriving DecidableEq, Repr

/-- The code the block offers in TX (R203): `frame_code(FRAME_COLOR, CODE_IDX)`. -/
def offeredCode (p : Params) (s : State) : PulseCode := frameCode p s.frameColor s.codeIdx

/-- The output equations of R55: functions of the state, and of `rst` for the three handshake signals. -/
def outputs (p : Params) (rst : Bool) (s : State) : PortOut :=
  { cmdReady := Machine.cmdReady rst s
    pcValid := s.phase == .tx && !rst
    pcData := pulseWord (offeredCode p s)
    pcLast := s.phase == .tx && s.codeIdx == 24#5
    txRespReady := s.phase == .txWait && !rst
    halted := Machine.halted s
    faultCause := s.faultCause.code
    cmdRejected := s.cmdRejected }

/-- The code the sink takes in this cycle (R54, R203): both `pc_valid` and `pc_ready` are 1. -/
def takenCode? (p : Params) (s : State) : Option PulseCode :=
  if (outputs p (currentIn s).rst s).pcValid && (currentIn s).pcReady then some (offeredCode p s) else none

/-- The response the block accepts in this cycle (R103, R205): whether the transmission failed. -/
def takenResponse? (p : Params) (s : State) : Option Bool :=
  if (outputs p (currentIn s).rst s).txRespReady && (currentIn s).txRespValid then some (currentIn s).txRespFail
  else none

end Sys2Proof.Machine
end

