-- ==== Sys2Proof/Machine/HostAgents.lean ====
section
/-! DEFINITION. The outside agents of spec/00_scope.md rule R9 as one host that keeps its duties
(spec/43_driver_loop.md rules R224 to R228): producers whose offers are written `@t: X` and held until the handshake
(spec/30_encoding.md rule R108), a sink that answers each frame in its first TXWAIT cycle, and a time base. It is one
host among the many that `inputs` and `Config.freeInputs` admit, and no part of the step (log entry 11). -/

namespace Sys2Proof.Machine

open Sys2Proof.Config

/-- What the host will do. -/
structure HostPlan where
  /-- `@t: X`, one after another on the one port: each from the later of its own `t` and the cycle after the previous
  handshake. -/
  offers : List (Nat × Nat)
  /-- The sink's answers, frame by frame: true is a failure (R103). Where the list has ended it answers success. -/
  answers : List Bool
  /-- Whether `time_tick` is 1 in every cycle (`TICK_HZ` equal to the `clk` frequency) or 0 in every cycle. -/
  timeTick : Bool
deriving DecidableEq, Repr

/-- The word the producers offer in cycle `n`. -/
def HostPlan.offer? (h : HostPlan) (n : Nat) : Option Nat :=
  match h.offers with
  | (t, w) :: _ => if t ≤ n then some w else none
  | [] => none

/-- The agents' moves in the coming cycle of `s`: the sink takes every code, and answers only in TXWAIT (R225, R226). -/
def HostPlan.move (h : HostPlan) (s : State) : PortIn :=
  { rst := false
    timeTick := h.timeTick
    cmdValid := (h.offer? s.cycle).isSome
    cmdData := (h.offer? s.cycle).getD 0
    pcReady := true
    txRespValid := s.phase == .txWait
    txRespFail := h.answers.headD false }

/-- The plan after that cycle: an accepted offer and a given answer are used up. -/
def HostPlan.after (p : Params) (h : HostPlan) (s : State) : HostPlan :=
  { h with
    offers := if (accepted? p (h.move s) s).isSome then h.offers.tail else h.offers
    answers := if s.phase == .txWait then h.answers.tail else h.answers }

/-- `n` cycles of the block and this host together. -/
def runWithHost (p : Params) : Nat → HostPlan → State → Host.Outcome State Fault Refusal
  | 0, _, s => .next s
  | n + 1, h, s =>
    match clockStep p { s with inputs := [h.move s] } with
    | .next t => runWithHost p n (h.after p s) t
    | .fault r => .fault r
    | .refused r => .refused r

end Sys2Proof.Machine
end

