-- ==== Sys2Proof/Machine/Iteration.lean ====
section
/-! DEFINITION. The loop at iteration level (spec/43_driver_loop.md rule R200): one tick, one frame, one race. Rule R217
says that the cycle-level phases of DriverLoop.lean do the same. -/

namespace Sys2Proof.Machine

open Sys2Proof.Config

/-- The animation state (R32 to R37), which the iterations hand on to each other. -/
structure Animation where
  op : CmdKind
  c0 : Color
  c1 : Color
  period : Nat
  forward : Bool
  elapsed : Nat
deriving DecidableEq, Repr

/-- The animation state of the block. -/
def animationOf (s : State) : Animation :=
  { op := s.curOp, c0 := s.curC0, c1 := s.curC1, period := s.curPeriod, forward := s.forward, elapsed := s.elapsed }

/-- The animation state every application of a command leaves (R177 to R179). -/
def Animation.ofCommand : Instr → Animation
  | .steady c => { op := .steady, c0 := c, c1 := 0#24, period := 0, forward := true, elapsed := 0 }
  | .blinky c0 c1 period => { op := .blinky, c0 := c0, c1 := c1, period := period, forward := true, elapsed := 0 }

/-- How a race ends (R200 step 4). -/
inductive RaceEnd where
  | timer
  | command (cmd : Instr)
deriving DecidableEq, Repr

/-- The colour an iteration transmits (R200 steps 1 to 3). -/
def iterationColor (p : Params) (s : State) : Color := (tick p s).color

/-- The animation state after an iteration that starts in `s` (R200): the tick's, or the command's. -/
def iterationEnd (p : Params) (s : State) : RaceEnd → Animation
  | .timer => animationOf (storeTick (tick p s) s)
  | .command cmd => Animation.ofCommand cmd

/-- `n` ticks with no command in between: the animation alone (R154, R156). -/
def ticksAlone (p : Params) : Nat → State → State
  | 0, s => s
  | n + 1, s => ticksAlone p n (storeTick (tick p s) s)

end Sys2Proof.Machine
end

