-- ==== Sys2Proof/Safety.lean ====
section
/-! DEFINITION. The terms claims are made in: the invariants of spec/10_state.md rules R34 to R51, the finite prefixes
of a run (spec/43_driver_loop.md rule R219) with what is handed over on the ports in them, and the host's duties (rules
R224 to R228). -/

namespace Sys2Proof.Machine

open Sys2Proof.Config

/-! ### Invariants -/

/-- R48. -/
abbrev AnimationInv (s : State) : Prop :=
  s.curOp = .blinky → 1 ≤ s.curPeriod ∧ s.elapsed ≤ s.curPeriod

/-- R34 and R35: under a Steady, `CUR_C1` and `CUR_PERIOD` hold 0. -/
abbrev SteadyInv (s : State) : Prop := s.curOp = .steady → s.curC1 = 0#24 ∧ s.curPeriod = 0

/-- The widths of R35, R37 and R39: the three duration registers hold `DUR_W` bits. -/
abbrev WidthInv (p : Params) (s : State) : Prop :=
  s.curPeriod < 2 ^ p.durW ∧ s.elapsed < 2 ^ p.durW ∧ s.sleepRem < 2 ^ p.durW

/-- A word that the queue may hold: `CMD_W` bits (R43), and no Blinky word with a zero PERIOD field (R49). -/
def mayQueue (p : Params) (w : Nat) : Bool := decide (w < 2 ^ p.cmdW) && !(cmdOp p w && cmdPeriod p w == 0)

/-- R43 and R49. -/
abbrev QueueInv (p : Params) (s : State) : Prop := s.q.length ≤ 2 ∧ s.q.all (mayQueue p) = true

/-- R50. -/
abbrev CodeIndexInv (s : State) : Prop := s.codeIdx.toNat ≤ 24

/-- R51. -/
abbrev HaltInv (s : State) : Prop := s.phase = .halt ↔ s.faultCause ≠ .none

/-- The invariants of R34, R35, R37, R39, R43 and R48 to R51 together. -/
abbrev BlockInv (p : Params) (s : State) : Prop :=
  AnimationInv s ∧ SteadyInv s ∧ WidthInv p s ∧ QueueInv p s ∧ CodeIndexInv s ∧ HaltInv s

/-- Once a frame is handed over, `CODE_IDX` stays at the RESET code's index until the next tick (R202, R203, R242). -/
abbrev FrameDoneInv (s : State) : Prop :=
  s.phase = .txWait ∨ s.phase = .race ∨ s.phase = .halt → s.codeIdx = 24#5

/-- What claims about a good run take as a premise (R243): the invariants and "no fault recorded". -/
abbrev Safe (p : Params) (s : State) : Prop := BlockInv p s ∧ s.faultCause = .none

/-! ### Runs -/

/-- The state after `n` steps of the block built with parameters `p`, if no step stops. -/
def stateAfter (p : Params) : Nat → State → Option State
  | 0, s => some s
  | n + 1, s =>
    match clockStep p s with
    | .next t => stateAfter p n t
    | .fault _ => none
    | .refused _ => none

/-- `P` holds at the start of each of the first `n` cycles. -/
def Throughout (p : Params) (n : Nat) (s : State) (P : State → Prop) : Prop :=
  ∀ k, k < n → ∀ t, stateAfter p k s = some t → P t

/-- The coming cycle is no reset cycle. -/
abbrev NoReset (s : State) : Prop := (currentIn s).rst = false

/-- What one cycle hands over, gathered over the first `n` cycles of a run. -/
def gather {α : Type} (p : Params) (f : State → Option α) : Nat → State → List α
  | 0, _ => []
  | n + 1, s =>
    (f s).toList ++
      match clockStep p s with
      | .next t => gather p f n t
      | .fault _ => []
      | .refused _ => []

/-- The codes the sink takes in the first `n` cycles, in order. -/
def codesTaken (p : Params) (n : Nat) (s : State) : List PulseCode := gather p (takenCode? p) n s

/-- The legal word the command port accepts in this cycle (R172). -/
def queuedWord? (p : Params) (s : State) : Option Nat :=
  match accepted? p (currentIn s) s with
  | some w => if (decode p w).toOption.isSome then some w else none
  | none => none

/-- The legal words accepted in the first `n` cycles, in order. -/
def wordsQueued (p : Params) (n : Nat) (s : State) : List Nat := gather p (queuedWord? p) n s

/-- The word the RACE phase pops and applies in this cycle (R175, R207). -/
def appliedWord? (s : State) : Option Nat :=
  if s.phase == .race && !(currentIn s).rst then s.q.head? else none

/-- The words applied in the first `n` cycles, in order. -/
def wordsApplied (p : Params) (n : Nat) (s : State) : List Nat := gather p appliedWord? n s

/-- The state of an outcome, where it has one. -/
def nextState? : Host.Outcome State Fault Refusal → Option State
  | .next t => some t
  | .fault _ => none
  | .refused _ => none

/-! ### The host's duties -/

/-- R225, R226, R280: the sink answers only a frame whose RESET code it has taken. -/
abbrev SinkDuty (s : State) : Prop := (currentIn s).txRespValid = true → s.phase = .txWait

/-- R174, R228: a producer that means to wait holds its offer, with the same word, until the handshake. -/
abbrev ProducerHolds (p : Params) (s t : State) : Prop :=
  (currentIn s).cmdValid = true → accepted? p (currentIn s) s = none →
    (currentIn t).cmdValid = true ∧ (currentIn t).cmdData = (currentIn s).cmdData

/-- R227: `time_tick` is "never in two consecutive cycles unless `TICK_HZ` equals the `clk` frequency". -/
abbrev TimeBaseDuty (clkHz : Nat) (p : Params) (s t : State) : Prop :=
  p.tickHz ≠ clkHz → (currentIn s).timeTick = true → (currentIn t).timeTick = false

end Sys2Proof.Machine
end

