-- ==== Sys2Proof/Laws/Port.lean ====
section
/-! SUPPORT. Everything the command port's part of a cycle can do: it touches `Q` and `CMD_REJECTED` only. -/

namespace Sys2Proof.Machine

open Sys2Proof.Config

/-- The port's part of a cycle is nothing, a push of a legal word, or a rejection. -/
theorem portStep_cases (p : Params) (i : PortIn) (start s : State) :
    (accepted? p i start = none ∧ portStep p i start s = s) ∨
    (∃ w cmd, accepted? p i start = some w ∧ decode p w = .ok cmd ∧ portStep p i start s = pushCommand w s) ∨
    (∃ w e, accepted? p i start = some w ∧ decode p w = .error e ∧ portStep p i start s = rejectCommand s) := by
  unfold portStep
  cases ha : accepted? p i start with
  | none => simp
  | some w =>
    cases hd : decode p w with
    | ok cmd => exact .inr (.inl ⟨w, cmd, rfl, hd, by simp [acceptCommand, hd]⟩)
    | error e => exact .inr (.inr ⟨w, e, rfl, hd, by simp [acceptCommand, hd]⟩)

section
variable (p : Params) (i : PortIn) (start s : State)

@[simp] theorem portStep_phase : (portStep p i start s).phase = s.phase := by
  obtain ⟨-, h⟩ | ⟨w, c, -, -, h⟩ | ⟨w, e, -, -, h⟩ := portStep_cases p i start s <;> simp [h]

@[simp] theorem portStep_curOp : (portStep p i start s).curOp = s.curOp := by
  obtain ⟨-, h⟩ | ⟨w, c, -, -, h⟩ | ⟨w, e, -, -, h⟩ := portStep_cases p i start s <;> simp [h]

@[simp] theorem portStep_curC0 : (portStep p i start s).curC0 = s.curC0 := by
  obtain ⟨-, h⟩ | ⟨w, c, -, -, h⟩ | ⟨w, e, -, -, h⟩ := portStep_cases p i start s <;> simp [h]

@[simp] theorem portStep_curC1 : (portStep p i start s).curC1 = s.curC1 := by
  obtain ⟨-, h⟩ | ⟨w, c, -, -, h⟩ | ⟨w, e, -, -, h⟩ := portStep_cases p i start s <;> simp [h]

@[simp] theorem portStep_curPeriod : (portStep p i start s).curPeriod = s.curPeriod := by
  obtain ⟨-, h⟩ | ⟨w, c, -, -, h⟩ | ⟨w, e, -, -, h⟩ := portStep_cases p i start s <;> simp [h]

@[simp] theorem portStep_forward : (portStep p i start s).forward = s.forward := by
  obtain ⟨-, h⟩ | ⟨w, c, -, -, h⟩ | ⟨w, e, -, -, h⟩ := portStep_cases p i start s <;> simp [h]

@[simp] theorem portStep_elapsed : (portStep p i start s).elapsed = s.elapsed := by
  obtain ⟨-, h⟩ | ⟨w, c, -, -, h⟩ | ⟨w, e, -, -, h⟩ := portStep_cases p i start s <;> simp [h]

@[simp] theorem portStep_frameColor : (portStep p i start s).frameColor = s.frameColor := by
  obtain ⟨-, h⟩ | ⟨w, c, -, -, h⟩ | ⟨w, e, -, -, h⟩ := portStep_cases p i start s <;> simp [h]

@[simp] theorem portStep_sleepRem : (portStep p i start s).sleepRem = s.sleepRem := by
  obtain ⟨-, h⟩ | ⟨w, c, -, -, h⟩ | ⟨w, e, -, -, h⟩ := portStep_cases p i start s <;> simp [h]

@[simp] theorem portStep_codeIdx : (portStep p i start s).codeIdx = s.codeIdx := by
  obtain ⟨-, h⟩ | ⟨w, c, -, -, h⟩ | ⟨w, e, -, -, h⟩ := portStep_cases p i start s <;> simp [h]

@[simp] theorem portStep_faultCause : (portStep p i start s).faultCause = s.faultCause := by
  obtain ⟨-, h⟩ | ⟨w, c, -, -, h⟩ | ⟨w, e, -, -, h⟩ := portStep_cases p i start s <;> simp [h]

@[simp] theorem portStep_inputs : (portStep p i start s).inputs = s.inputs := by
  obtain ⟨-, h⟩ | ⟨w, c, -, -, h⟩ | ⟨w, e, -, -, h⟩ := portStep_cases p i start s <;> simp [h]

@[simp] theorem portStep_cycle : (portStep p i start s).cycle = s.cycle := by
  obtain ⟨-, h⟩ | ⟨w, c, -, -, h⟩ | ⟨w, e, -, -, h⟩ := portStep_cases p i start s <;> simp [h]

end

/-- The queue after the port's part: the legal word accepted in this cycle, if any, stands behind the rest. -/
theorem portStep_q (p : Params) (start s : State) :
    (portStep p (currentIn start) start s).q = s.q ++ (queuedWord? p start).toList := by
  unfold queuedWord?
  obtain ⟨ha, h⟩ | ⟨w, c, ha, hd, h⟩ | ⟨w, e, ha, hd, h⟩ := portStep_cases p (currentIn start) start s
  · simp [h, ha]
  · simp [h, ha, hd, Except.toOption]
  · simp [h, ha, hd, Except.toOption]

/-- R49's words are exactly those that decode. -/
theorem mayQueue_iff (p : Params) (w : Nat) : mayQueue p w = true ↔ ∃ i, decode p w = .ok i := by
  rw [exists_decode_iff]
  cases h : cmdOp p w <;> simp [mayQueue, h]

/-- A word of the port has `CMD_W` bits (R72). -/
theorem portWord_lt (p : Params) (i : PortIn) : portWord p i < 2 ^ p.cmdW := Nat.mod_lt _ (Nat.two_pow_pos _)

/-- A word is accepted only into a queue with room, outside reset (R171). -/
theorem accepted?_some {p : Params} {i : PortIn} {s : State} {w : Nat} (h : accepted? p i s = some w) :
    i.cmdValid = true ∧ i.rst = false ∧ s.q.length < 2 ∧ portWord p i = w := by
  unfold accepted? cmdReady at h
  split at h
  · simp_all
  · cases h

theorem accepted?_lt {p : Params} {i : PortIn} {s : State} {w : Nat} (h : accepted? p i s = some w) :
    w < 2 ^ p.cmdW := by
  rw [← (accepted?_some h).2.2.2]
  exact portWord_lt p i

/-- A queued word is an accepted word that decodes. -/
theorem queuedWord?_some {p : Params} {s : State} {w : Nat} (h : queuedWord? p s = some w) :
    accepted? p (currentIn s) s = some w ∧ ∃ i, decode p w = .ok i := by
  unfold queuedWord? at h
  cases ha : accepted? p (currentIn s) s with
  | none => simp [ha] at h
  | some v =>
    cases hd : decode p v with
    | ok cmd =>
      simp only [ha, hd, Except.toOption, Option.isSome_some, if_true, Option.some.injEq] at h
      subst h
      exact ⟨rfl, cmd, hd⟩
    | error e => simp [ha, hd, Except.toOption] at h

end Sys2Proof.Machine
end

