-- ==== Sys2Proof/Laws/DriverLoop.lean ====
section
/-! SUPPORT. Everything each phase and each clock cycle can do: one inversion lemma per phase, one for the step. -/

namespace Sys2Proof.Machine

open Sys2Proof.Config

/-! ### The register a phase counts in that is a bit vector -/

theorem codeIdx_eq_last {i : BitVec 5} : i = 24#5 ↔ i.toNat = 24 := by
  rw [BitVec.toNat_eq]
  rfl

/-- The index advances without wrapping (R203). -/
theorem codeIdx_succ_toNat {i : BitVec 5} (h : i.toNat < 24) : (i + 1#5).toNat = i.toNat + 1 := by
  rw [BitVec.toNat_add]
  simp
  omega

/-! ### The phases -/

theorem phaseTick_next_iff (p : Params) (s t : State) :
    phaseTick p s = .next t ↔
      tickDefined s = true ∧ t = { storeTick (tick p s) s with codeIdx := 0#5, phase := .tx } := by
  cases hd : tickDefined s <;> simp [phaseTick, hd, @eq_comm _ t]

theorem phaseTx_next_iff (i : PortIn) (s t : State) :
    phaseTx i s = .next t ↔
      (i.pcReady = true ∧ s.codeIdx = 24#5 ∧ t = { s with phase := .txWait }) ∨
      (i.pcReady = true ∧ s.codeIdx.toNat < 24 ∧ t = { s with codeIdx := s.codeIdx + 1#5 }) ∨
      (i.pcReady = false ∧ t = s) := by
  cases hr : i.pcReady with
  | false => simp [phaseTx, hr, @eq_comm _ t]
  | true =>
    by_cases h : s.codeIdx = 24#5
    · simp [phaseTx, hr, h, @eq_comm _ t]
    · by_cases hlt : s.codeIdx.toNat < 24 <;> simp [phaseTx, hr, h, hlt, @eq_comm _ t]

theorem phaseTxWait_next_iff (i : PortIn) (s t : State) :
    phaseTxWait i s = .next t ↔
      (i.txRespValid = true ∧ i.txRespFail = true ∧ t = raiseFault .txFail s) ∨
      (i.txRespValid = true ∧ i.txRespFail = false ∧ t = { s with phase := .race }) ∨
      (i.txRespValid = false ∧ t = s) := by
  cases hv : i.txRespValid <;> cases hf : i.txRespFail <;> simp [phaseTxWait, hv, hf, @eq_comm _ t]

theorem phaseRace_next_iff (p : Params) (i : PortIn) (s t : State) :
    phaseRace p i s = .next t ↔
      (∃ w rest cmd, s.q = w :: rest ∧ decode p w = .ok cmd ∧ exec cmd { s with q := rest } = .next t) ∨
      (s.q = [] ∧ s.sleepRem = 0 ∧ t = { s with phase := .tick }) ∨
      (s.q = [] ∧ s.sleepRem ≠ 0 ∧ i.timeTick = true ∧ t = { s with sleepRem := s.sleepRem - 1 }) ∨
      (s.q = [] ∧ s.sleepRem ≠ 0 ∧ i.timeTick = false ∧ t = s) := by
  cases hq : s.q with
  | nil =>
    by_cases hz : s.sleepRem = 0
    · simp [phaseRace, hq, hz, @eq_comm _ t]
    · cases ht : i.timeTick <;> simp [phaseRace, hq, hz, ht, @eq_comm _ t]
  | cons w rest =>
    cases hd : decode p w with
    | ok cmd =>
      have : phaseRace p i s = exec cmd { s with q := rest } := by simp [phaseRace, hq, hd]
      rw [this]
      simp [hd]
    | error e => simp [phaseRace, hq, hd]

/-- A reset cycle (R270), from any state whatever. -/
theorem clockStep_of_rst (p : Params) {s : State} (h : (currentIn s).rst = true) :
    clockStep p s = .next (nextCycle (resetBlock s)) := by
  simp [clockStep, clockCycle, h]

/-- The inversion of a step outside reset: the sequencer's part, then the port's, then the host's next cycle. -/
theorem clockStep_next_iff (p : Params) {s : State} (h : (currentIn s).rst = false) (t : State) :
    clockStep p s = .next t ↔
      ∃ u, sequencer p (currentIn s) s = .next u ∧ t = nextCycle (portStep p (currentIn s) s u) := by
  unfold clockStep clockCycle
  rw [h]
  cases sequencer p (currentIn s) s <;> simp [@eq_comm _ t]

/-- The inversion of any step. -/
theorem clockStep_cases {p : Params} {s t : State} (h : clockStep p s = .next t) :
    ((currentIn s).rst = true ∧ t = nextCycle (resetBlock s)) ∨
    ((currentIn s).rst = false ∧
      ∃ u, sequencer p (currentIn s) s = .next u ∧ t = nextCycle (portStep p (currentIn s) s u)) := by
  cases hr : (currentIn s).rst with
  | true =>
    rw [clockStep_of_rst p hr] at h
    cases h
    exact .inl ⟨rfl, rfl⟩
  | false => exact .inr ⟨rfl, (clockStep_next_iff p hr t).mp h⟩

/-- This hardware's step is the generic one at the default parameters. -/
theorem step_eq_clockStep (s : State) : step s = clockStep thisHardware s := rfl

section
variable {p : Params} {i : PortIn} {s : State}

theorem sequencer_tick (h : s.phase = .tick) : sequencer p i s = phaseTick p s := by
  simp [sequencer, h]

theorem sequencer_tx (h : s.phase = .tx) : sequencer p i s = phaseTx i s := by
  simp [sequencer, h]

theorem sequencer_txWait (h : s.phase = .txWait) : sequencer p i s = phaseTxWait i s := by
  simp [sequencer, h]

theorem sequencer_race (h : s.phase = .race) : sequencer p i s = phaseRace p i s := by
  simp [sequencer, h]

theorem sequencer_halt (h : s.phase = .halt) : sequencer p i s = .next s := by
  simp [sequencer, phaseHalt, h]

end

/-- What the sequencer leaves alone in every phase: the port's own bit and the host's moves. -/
theorem sequencer_keeps {p : Params} {i : PortIn} {s t : State} (h : sequencer p i s = .next t) :
    t.cmdRejected = s.cmdRejected ∧ t.inputs = s.inputs ∧ t.cycle = s.cycle := by
  cases hp : s.phase with
  | tick =>
    rw [sequencer_tick hp, phaseTick_next_iff] at h
    obtain ⟨-, rfl⟩ := h
    simp
  | tx =>
    rw [sequencer_tx hp, phaseTx_next_iff] at h
    obtain ⟨-, -, rfl⟩ | ⟨-, -, rfl⟩ | ⟨-, rfl⟩ := h <;> simp
  | txWait =>
    rw [sequencer_txWait hp, phaseTxWait_next_iff] at h
    obtain ⟨-, -, rfl⟩ | ⟨-, -, rfl⟩ | ⟨-, rfl⟩ := h <;> simp
  | race =>
    rw [sequencer_race hp, phaseRace_next_iff] at h
    obtain ⟨w, rest, cmd, -, -, h⟩ | ⟨-, -, rfl⟩ | ⟨-, -, -, rfl⟩ | ⟨-, -, -, rfl⟩ := h
    · obtain ⟨c, -, rfl⟩ | ⟨c0, c1, d, -, -, rfl⟩ := (exec_next_iff _ _ _).mp h <;> simp
    all_goals simp
  | halt =>
    rw [sequencer_halt hp] at h
    cases h
    simp

/-- The sequencer's part of the queue: a RACE cycle takes the head, if there is one; no other phase touches it
(R175). -/
theorem sequencer_q {p : Params} {i : PortIn} {s t : State} (h : sequencer p i s = .next t) :
    t.q = if s.phase = .race then s.q.tail else s.q := by
  cases hp : s.phase with
  | tick =>
    rw [sequencer_tick hp, phaseTick_next_iff] at h
    obtain ⟨-, rfl⟩ := h
    simp
  | tx =>
    rw [sequencer_tx hp, phaseTx_next_iff] at h
    obtain ⟨-, -, rfl⟩ | ⟨-, -, rfl⟩ | ⟨-, rfl⟩ := h <;> simp
  | txWait =>
    rw [sequencer_txWait hp, phaseTxWait_next_iff] at h
    obtain ⟨-, -, rfl⟩ | ⟨-, -, rfl⟩ | ⟨-, rfl⟩ := h <;> simp
  | race =>
    rw [sequencer_race hp, phaseRace_next_iff] at h
    obtain ⟨w, rest, cmd, hq, -, h⟩ | ⟨hq, -, rfl⟩ | ⟨hq, -, -, rfl⟩ | ⟨hq, -, -, rfl⟩ := h
    · obtain ⟨c, -, rfl⟩ | ⟨c0, c1, d, -, -, rfl⟩ := (exec_next_iff _ _ _).mp h <;> simp [hq]
    all_goals simp [hq]
  | halt =>
    rw [sequencer_halt hp] at h
    cases h
    simp

end Sys2Proof.Machine
end

