-- ==== Sys2Proof/Laws/Runs.lean ====
section
/-! SUPPORT. Runs of several cycles, one cycle at a time. -/

namespace Sys2Proof.Machine

open Sys2Proof.Config

@[simp] theorem stateAfter_zero (p : Params) (s : State) : stateAfter p 0 s = some s := rfl

theorem stateAfter_succ {p : Params} {s t : State} (h : clockStep p s = .next t) (n : Nat) :
    stateAfter p (n + 1) s = stateAfter p n t := by
  simp [stateAfter, h]

/-- The first step of a run that does not stop. -/
theorem stateAfter_succ_some {p : Params} {n : Nat} {s u : State} (h : stateAfter p (n + 1) s = some u) :
    ∃ t, clockStep p s = .next t ∧ stateAfter p n t = some u := by
  simp only [stateAfter] at h
  split at h
  · rename_i t ht
    exact ⟨t, ht, h⟩
  · cases h
  · cases h

/-- A run of `m + n` cycles is one of `m` and then one of `n`. -/
theorem stateAfter_add {p : Params} {m n : Nat} {s t : State} (h : stateAfter p m s = some t) :
    stateAfter p (m + n) s = stateAfter p n t := by
  induction m generalizing s with
  | zero =>
    cases h
    rw [Nat.zero_add]
  | succ m ih =>
    obtain ⟨u, hu, h⟩ := stateAfter_succ_some h
    rw [Nat.add_right_comm, stateAfter_succ hu, ih h]

/-- A property of every cycle of a run, one cycle at a time. -/
theorem throughout_succ {p : Params} {n : Nat} {s t : State} {P : State → Prop} (h : clockStep p s = .next t) :
    Throughout p (n + 1) s P ↔ P s ∧ Throughout p n t P := by
  constructor
  · intro H
    refine ⟨H 0 (Nat.succ_pos n) s rfl, fun k hk u hu => H (k + 1) (Nat.succ_lt_succ hk) u ?_⟩
    rw [stateAfter_succ h, hu]
  · rintro ⟨h0, H⟩ k hk u hu
    cases k with
    | zero => cases hu; exact h0
    | succ k =>
      rw [stateAfter_succ h] at hu
      exact H k (Nat.lt_of_succ_lt_succ hk) u hu

/-- A property of every cycle of a concrete run, checked cycle by cycle. -/
theorem throughout_of_check {p : Params} {n : Nat} {s : State} {P : State → Prop} [DecidablePred P]
    (h : ∀ k, k < n → ((stateAfter p k s).all fun t => decide (P t)) = true) : Throughout p n s P := by
  intro k hk t ht
  have := h k hk
  rw [ht] at this
  simpa using this

/-- A property that every step keeps holds along a run. -/
theorem stateAfter_induction {p : Params} {P : State → Prop}
    (hstep : ∀ s t, P s → clockStep p s = .next t → P t) {n : Nat} {s t : State}
    (hs : P s) (h : stateAfter p n s = some t) : P t := by
  induction n generalizing s with
  | zero => cases h; exact hs
  | succ n ih =>
    obtain ⟨u, hu, h⟩ := stateAfter_succ_some h
    exact ih (hstep s u hs hu) h

@[simp] theorem gather_zero {α : Type} (p : Params) (f : State → Option α) (s : State) : gather p f 0 s = [] := rfl

theorem gather_succ {α : Type} {p : Params} (f : State → Option α) {s t : State} (h : clockStep p s = .next t)
    (n : Nat) : gather p f (n + 1) s = (f s).toList ++ gather p f n t := by
  simp [gather, h]

/-- What a run of `m + n` cycles hands over. -/
theorem gather_add {α : Type} {p : Params} (f : State → Option α) {m n : Nat} {s t : State}
    (h : stateAfter p m s = some t) : gather p f (m + n) s = gather p f m s ++ gather p f n t := by
  induction m generalizing s with
  | zero =>
    cases h
    simp
  | succ m ih =>
    obtain ⟨u, hu, h⟩ := stateAfter_succ_some h
    rw [Nat.add_right_comm, gather_succ f hu, gather_succ f hu, ih h, List.append_assoc]

end Sys2Proof.Machine
end

