-- ==== Sys2Proof/Certificates/Slice0/Obligations.lean ====
section
/-! DEFINITION. The statements for the provers, in the order of the spec's files. `p` is any choice of the parameters of
R10; `step` is the block at the defaults. A statement over `clockStep p` holds of `step`, which is
`clockStep thisHardware`. -/

open Sys2Proof Sys2Proof.Machine Sys2Proof.Config

/-! ### 00 scope: parameters -/

/-- R13: "The default values are the nominal times 0.4 µs, 0.8 µs and 50 µs multiplied by `PCLK_HZ`, rounded to the
nearest integer" (at an exact half either integer is allowed here; that `nominalCycles` takes the upper one is the
model's choice: log entry 14). R10, R12: the defaults meet the constraints, and `CMD_W` is 81 at the default. -/
def Obligations.DefaultsAreNominalTimes : Prop :=
  thisHardware.Valid ∧ thisHardware.atClock 80000000 = thisHardware ∧ thisHardware.cmdW = 81 ∧
  (∀ ns hz, 2 * ns * hz ≤ 2000000000 * nominalCycles ns hz + 1000000000 ∧
    2000000000 * nominalCycles ns hz ≤ 2 * ns * hz + 1000000000)

/-! ### 10 state: invariants, reset values, outputs -/

/-- R52: the reset value of every piece of state. -/
def Obligations.ResetValues : Prop :=
  State.reset.phase = .tick ∧ State.reset.phase.code = 0#3 ∧ State.reset.curOp = .steady ∧
  State.reset.curC0 = 0x000000#24 ∧ State.reset.curC1 = 0x000000#24 ∧ State.reset.curPeriod = 0 ∧
  State.reset.forward = true ∧ State.reset.elapsed = 0 ∧ State.reset.frameColor = 0x000000#24 ∧
  State.reset.sleepRem = 0 ∧ State.reset.codeIdx.toNat = 0 ∧ State.reset.qCount.toNat = 0 ∧
  State.reset.q = [] ∧ State.reset.faultCause.code = 0#2 ∧ State.reset.cmdRejected = false

/-- R55: the output equations. -/
def Obligations.OutputEquations : Prop :=
  ∀ (p : Params) (rst : Bool) (s : State),
    ((outputs p rst s).cmdReady = true ↔ s.q.length < 2 ∧ rst = false) ∧
    ((outputs p rst s).pcValid = true ↔ s.phase = .tx ∧ rst = false) ∧
    (outputs p rst s).pcData = pulseWord (frameCode p s.frameColor s.codeIdx) ∧
    ((outputs p rst s).pcLast = true ↔ s.phase = .tx ∧ s.codeIdx.toNat = 24) ∧
    ((outputs p rst s).txRespReady = true ↔ s.phase = .txWait ∧ rst = false) ∧
    ((outputs p rst s).halted = true ↔ s.phase = .halt) ∧
    (outputs p rst s).faultCause = s.faultCause.code ∧
    (outputs p rst s).cmdRejected = s.cmdRejected

/-- The reset state meets the invariants of R34, R35, R37, R39, R43 and R48 to R51, whatever the parameters. -/
def Obligations.InvariantsAtReset : Prop := ∀ p : Params, BlockInv p State.reset

/-- R34, R35, R37, R39, R43, R48 to R51 are invariants of every step: whatever the inputs, a step from a state that
meets them gives one that does, with every parameter R10 allows; and so does this hardware's `step`. -/
def Obligations.StepKeepsInvariants : Prop :=
  (∀ (p : Params) (s t : State), p.Valid → BlockInv p s → clockStep p s = .next t → BlockInv p t) ∧
  (∀ s t : State, BlockInv thisHardware s → step s = .next t → BlockInv thisHardware t)

/-- R203, R242: outside TICK and TX, `CODE_IDX` stays at the RESET code's index, 24. -/
def Obligations.StepKeepsFrameDone : Prop :=
  FrameDoneInv State.reset ∧ ∀ p s t, FrameDoneInv s → clockStep p s = .next t → FrameDoneInv t

/-- R32 to R37: which cycles may change the animation registers. `CUR_*` change only where a command is applied;
`FORWARD` and `ELAPSED` only there and in TICK; `FRAME_COLOR` only in TICK; `SLEEP_REM` only in TICK and RACE;
`CODE_IDX` only in TICK and TX. -/
def Obligations.RegistersChangeOnlyInTheirPhases : Prop :=
  ∀ p s t, NoReset s → clockStep p s = .next t →
    (¬(s.phase = .race ∧ s.q ≠ []) →
      t.curOp = s.curOp ∧ t.curC0 = s.curC0 ∧ t.curC1 = s.curC1 ∧ t.curPeriod = s.curPeriod) ∧
    (s.phase ≠ .tick ∧ ¬(s.phase = .race ∧ s.q ≠ []) → t.forward = s.forward ∧ t.elapsed = s.elapsed) ∧
    (s.phase ≠ .tick → t.frameColor = s.frameColor) ∧
    (s.phase ≠ .tick ∧ ¬(s.phase = .race ∧ s.q = []) → t.sleepRem = s.sleepRem) ∧
    (s.phase ≠ .tick ∧ s.phase ≠ .tx → t.codeIdx = s.codeIdx)

/-- R45: `CMD_REJECTED` is set exactly by an accepted Blinky word whose period is 0, which is discarded; it sticks, is
cleared only by reset, and is driven on its output. -/
def Obligations.CmdRejectedIsSticky : Prop :=
  ∀ p s t, clockStep p s = .next t →
    (t.cmdRejected = true ↔
      NoReset s ∧ (s.cmdRejected = true ∨
        ∃ w, accepted? p (currentIn s) s = some w ∧ cmdOp p w = true ∧ cmdPeriod p w = 0)) ∧
    (∀ w, accepted? p (currentIn s) s = some w → cmdOp p w = true → cmdPeriod p w = 0 →
      t.q = if s.phase = .race then s.q.tail else s.q) ∧
    (outputs p (currentIn t).rst t).cmdRejected = t.cmdRejected

/-! ### 30 encoding -/

/-- R91, R93, R107: decoding the encoder's word gives the command back, with every field at every value of every
`DUR_W`, as the decoder reads the port's word; and, at the default `DUR_W`, as it reads the table's numbering of it. -/
def Obligations.DecodeEncodeRoundTrip : Prop :=
  (∀ (p : Params) (i : Instr), i.wellFormed p = true → decode p (encode p i) = .ok i) ∧
  (∀ i : Instr, i.wellFormed thisHardware = true → decodeTableWord 88 (encode thisHardware i) = some i)

/-- R95, R107: encoding what a word decodes to gives a BLINKY word back as it is, and a STEADY word with its ignored
bits, the `24 + DUR_W` lowest, cleared. -/
def Obligations.EncodeOfDecodedWord : Prop :=
  ∀ (p : Params) (w : Nat) (i : Instr), decode p w = .ok i →
    encode p i =
      if 2 ^ (p.durW + 48) ≤ w then w else w / 2 ^ (p.durW + 24) * 2 ^ (p.durW + 24)

/-- R93, R94, R97: the decoder, total on the words of `CMD_W` bits, as arithmetic on the word's number: `OP` is the bit
`DUR_W + 48`, each channel is the eight bits from the one R93 gives, `PERIOD` the low `DUR_W` bits. -/
def Obligations.DecodeReadsTheFields : Prop :=
  ∀ (p : Params) (w : Nat), w < 2 ^ p.cmdW →
    let channel := fun lo => BitVec.ofNat 8 (w / 2 ^ lo % 2 ^ 8)
    let c0 := mkColor (channel (p.durW + 40)) (channel (p.durW + 32)) (channel (p.durW + 24))
    let c1 := mkColor (channel (p.durW + 16)) (channel (p.durW + 8)) (channel p.durW)
    let period := w % 2 ^ p.durW
    decode p w =
      if w / 2 ^ (p.durW + 48) % 2 = 0 then .ok (.steady c0)
      else if period = 0 then .error .blinkyPeriodZero
      else .ok (.blinky c0 c1 period)

/-- R92: the three channels of a colour, and the colour from its channels. -/
def Obligations.ColorLanes : Prop :=
  ∀ c : Color,
    (red c).toNat = c.toNat / 2 ^ 16 ∧ (green c).toNat = c.toNat / 2 ^ 8 % 2 ^ 8 ∧ (blue c).toNat = c.toNat % 2 ^ 8 ∧
    ∀ r g b : Byte, (mkColor r g b).toNat = r.toNat * 2 ^ 16 + g.toNat * 2 ^ 8 + b.toNat

/-- R109: the worked encodings, from the syntax of R107 and R108 to words, and from words to commands, at the
default `DUR_W`. -/
def Obligations.WorkedEncodings : Prop :=
  assemble thisHardware "STEADY #FF8000".toList = some 0x0FF800000000000000000 ∧
  decode thisHardware 0x0FF800000000000000000 = .ok (.steady (mkColor 255#8 128#8 0#8)) ∧
  assemble thisHardware "OFF".toList = some 0x000000000000000000000 ∧
  decode thisHardware 0x000000000000000000000 = .ok (.steady (mkColor 0#8 0#8 0#8)) ∧
  assemble thisHardware "BLINKY #FF0000, #00FF00, 1000000".toList = some 0x1FF000000FF00000F4240 ∧
  decode thisHardware 0x1FF000000FF00000F4240 = .ok (.blinky (mkColor 255#8 0#8 0#8) (mkColor 0#8 255#8 0#8) 1000000) ∧
  assemble thisHardware "BLINKY #000000, #FFFFFF, 1".toList = some 0x1000000FFFFFF00000001 ∧
  decode thisHardware 0x1000000FFFFFF00000001 = .ok (.blinky (mkColor 0#8 0#8 0#8) (mkColor 255#8 255#8 255#8) 1) ∧
  assemble thisHardware "BLINKY #000000, #FFFFFF, 0".toList = none ∧
  decode thisHardware 0x1000000FFFFFF00000000 = .error .blinkyPeriodZero ∧
  decode thisHardware 0x0123456ABCDEFDEADBEEF = .ok (.steady (mkColor 0x12#8 0x34#8 0x56#8))

/-- R107: an assembler refuses exactly the periods 0 and those that do not fit in `DUR_W` bits, and encodes every other
one as `PERIOD`. -/
def Obligations.AssemblerRefusesBadPeriods : Prop :=
  ∀ (p : Params) (c0 c1 : Color) (n : Nat),
    (blinkyOf? p c0 c1 n = none ↔ n = 0 ∨ 2 ^ p.durW ≤ n) ∧
    (∀ i, blinkyOf? p c0 c1 n = some i →
      cmdOp p (encode p i) = true ∧ cmdC0 p (encode p i) = c0 ∧ cmdC1 p (encode p i) = c1 ∧
      cmdPeriod p (encode p i) = n)

/-- R95: every STEADY word is legal, whatever its ignored fields; two with the same `C0` field have the same effect when
they are popped, and on every output while they wait, anywhere in the queue; an assembler writes the ignored fields
as 0. -/
def Obligations.SteadyIgnoresItsOtherFields : Prop :=
  (∀ (p : Params) (w : Nat), w < 2 ^ p.cmdW → cmdOp p w = false → decode p w = .ok (.steady (cmdC0 p w))) ∧
  (∀ (p : Params) (w w' : Nat) (s : State) (before rest : List Nat) (rst : Bool),
    w < 2 ^ p.cmdW → w' < 2 ^ p.cmdW → cmdOp p w = false → cmdOp p w' = false → cmdC0 p w = cmdC0 p w' →
    (s.phase = .race →
      clockStep p { s with q := w :: rest } = clockStep p { s with q := w' :: rest }) ∧
    outputs p rst { s with q := before ++ w :: rest } = outputs p rst { s with q := before ++ w' :: rest }) ∧
  (∀ (p : Params) (c : Color), cmdC1 p (encode p (.steady c)) = 0#24 ∧ cmdPeriod p (encode p (.steady c)) = 0)

/-! ### 40 pulse encoder -/

/-- R100: the fields of a PULSE word, as arithmetic on its number. -/
def Obligations.PulseWordLayout : Prop :=
  ∀ c : PulseCode, c.length1 < 2 ^ lenW → c.length2 < 2 ^ lenW →
    (pulseWord c).toNat =
      c.level2.toNat * 2 ^ 31 + c.length2 * 2 ^ 16 + c.level1.toNat * 2 ^ 15 + c.length1

/-- R101: the block produces only the three words ONE, ZERO and RESET, which are distinct; their general and their
default values. -/
def Obligations.OnlyThreeCodeWords : Prop :=
  (∀ p : Params, p.Valid →
    (∀ (c : Color) (i : BitVec 5),
      pulseWord (frameCode p c i) = pulseWord (oneCode p) ∨ pulseWord (frameCode p c i) = pulseWord (zeroCode p) ∨
      pulseWord (frameCode p c i) = pulseWord (resetCode p)) ∧
    pulseWord (oneCode p) ≠ pulseWord (zeroCode p) ∧ pulseWord (oneCode p) ≠ pulseWord (resetCode p) ∧
    pulseWord (zeroCode p) ≠ pulseWord (resetCode p) ∧
    pulseWord (oneCode p) = 0#1 ++ BitVec.ofNat 15 p.shortCycles ++ 1#1 ++ BitVec.ofNat 15 p.longCycles ∧
    pulseWord (zeroCode p) = 0#1 ++ BitVec.ofNat 15 p.longCycles ++ 1#1 ++ BitVec.ofNat 15 p.shortCycles ∧
    pulseWord (resetCode p) = 0#1 ++ BitVec.ofNat 15 0 ++ 0#1 ++ BitVec.ofNat 15 p.resetCycles) ∧
  pulseWord (oneCode thisHardware) = 0x00208040#32 ∧
  pulseWord (zeroCode thisHardware) = 0x00408020#32 ∧
  pulseWord (resetCode thisHardware) = 0x00000FA0#32

/-- R125: `encode_byte` sends bit 7 first. -/
def Obligations.EncodeByteMsbFirst : Prop :=
  ∀ p : Params,
    (∀ b : Byte, (encodeByte p b).length = 8 ∧
      ∀ k, k < 8 → (encodeByte p b)[k]? = some (if b.getLsbD (7 - k) then oneCode p else zeroCode p)) ∧
    encodeByte p 0x00#8 = List.replicate 8 (zeroCode p) ∧ encodeByte p 0xFF#8 = List.replicate 8 (oneCode p) ∧
    encodeByte p 0xA5#8 =
      [oneCode p, zeroCode p, oneCode p, zeroCode p, zeroCode p, oneCode p, zeroCode p, oneCode p]

/-- R126, R129: every frame is 24 data codes and then RESET; ONE, ZERO and RESET differ; the frame decodes back to its
colour. -/
def Obligations.FrameDecodesBack : Prop :=
  ∀ (p : Params) (c : Color), p.Valid →
    (encodeFrame p c).length = 25 ∧
    (∀ i, i < 24 → (encodeFrame p c)[i]? = some (oneCode p) ∨ (encodeFrame p c)[i]? = some (zeroCode p)) ∧
    (encodeFrame p c)[24]? = some (resetCode p) ∧
    oneCode p ≠ zeroCode p ∧ oneCode p ≠ resetCode p ∧ zeroCode p ≠ resetCode p ∧
    colorOfFrame p (encodeFrame p c) = c

/-- R127: `frame_code(c, i)` is element `i` of the frame, the bit of its channel that R127 names, and RESET for the
indexes 25 to 31. -/
def Obligations.FrameCodeIsFrameElement : Prop :=
  ∀ (p : Params) (c : Color) (i : BitVec 5),
    (i.toNat ≤ 24 → (encodeFrame p c)[i.toNat]? = some (frameCode p c i)) ∧
    (i.toNat ≤ 7 → frameCode p c i = encodeBit p ((green c).getLsbD (7 - i.toNat))) ∧
    (8 ≤ i.toNat ∧ i.toNat ≤ 15 → frameCode p c i = encodeBit p ((red c).getLsbD (15 - i.toNat))) ∧
    (16 ≤ i.toNat ∧ i.toNat ≤ 23 → frameCode p c i = encodeBit p ((blue c).getLsbD (23 - i.toNat))) ∧
    (24 ≤ i.toNat → frameCode p c i = resetCode p) ∧
    frameCode p 0x123456#24 2#5 = oneCode p

/-- R130: how many peripheral clock cycles a frame takes on the wire; at the defaults 6304, which is 78.8 µs. -/
def Obligations.FrameWireTime : Prop :=
  (∀ (p : Params) (c : Color),
    ((encodeFrame p c).map codeCycles).sum = 24 * (p.longCycles + p.shortCycles) + p.resetCycles) ∧
  (∀ c : Color, ((encodeFrame thisHardware c).map codeCycles).sum = 6304) ∧
  6304 * 10 * 1000000 = 788 * thisHardware.pclkHz

/-! ### 41 animation -/

/-- R141: a Steady tick. -/
def Obligations.SteadyTick : Prop :=
  ∀ (p : Params) (s : State), s.curOp = .steady →
    (tick p s).color = s.curC0 ∧ (tick p s).nextSleep = p.steadySleep ∧
    (tick p s).forward = s.forward ∧ (tick p s).elapsed = s.elapsed

/-- R142 to R148: a Blinky tick, every quantity an exact natural. -/
def Obligations.BlinkyTick : Prop :=
  ∀ (p : Params) (s : State), s.curOp = .blinky → AnimationInv s →
    let P := s.curPeriod
    let E := s.elapsed
    let I := p.refreshInterval
    let raw := E * 256 / P
    let ratio := if s.forward then raw else 256 - raw
    let lane := fun (a b : Byte) => (a.toNat * ratio + b.toNat * (256 - ratio)) / 256
    (red (tick p s).color).toNat = lane (red s.curC0) (red s.curC1) ∧
    (green (tick p s).color).toNat = lane (green s.curC0) (green s.curC1) ∧
    (blue (tick p s).color).toNat = lane (blue s.curC0) (blue s.curC1) ∧
    (s.forward = true ∧ ratio = 256 → (tick p s).forward = false ∧ (tick p s).elapsed = 0) ∧
    (s.forward = false ∧ ratio = 0 → (tick p s).forward = true ∧ (tick p s).elapsed = 0) ∧
    (¬(s.forward = true ∧ ratio = 256) ∧ ¬(s.forward = false ∧ ratio = 0) →
      (tick p s).forward = s.forward ∧ (tick p s).elapsed = min (E + I) P) ∧
    (tick p s).nextSleep = I

/-- R149: the widths of every intermediate value of a tick, and that what it stores fits its registers. -/
def Obligations.TickNeverOverflows : Prop :=
  (∀ (p : Params) (s : State), p.Valid → s.curOp = .blinky → AnimationInv s → WidthInv p s →
    s.elapsed * 256 ≤ (2 ^ p.durW - 1) * 256 ∧ (2 ^ p.durW - 1) * 256 < 2 ^ (p.durW + 8) ∧
    rawRatio s.elapsed s.curPeriod ≤ 256 ∧
    s.elapsed + p.refreshInterval ≤ 2 ^ (p.durW + 1) - 2 ∧
    advance p.refreshInterval s.elapsed s.curPeriod ≤ s.curPeriod ∧
    (tick p s).elapsed ≤ s.curPeriod ∧ s.curPeriod < 2 ^ p.durW ∧ (tick p s).nextSleep < 2 ^ p.durW ∧
    1 ≤ s.curPeriod) ∧
  (∀ (a b : Byte) (ratio : Nat), ratio ≤ 256 →
    a.toNat * ratio ≤ 65280 ∧ b.toNat * (256 - ratio) ≤ 65280 ∧
    a.toNat * ratio + b.toNat * (256 - ratio) ≤ 65280 ∧
    (lerp a b ratio).toNat = (a.toNat * ratio + b.toNat * (256 - ratio)) >>> 8)

/-- R150: the ratios and the interpolated channels stay in range. -/
def Obligations.RatioAndLerpRanges : Prop :=
  (∀ s : State, s.curOp = .blinky → AnimationInv s →
    rawRatio s.elapsed s.curPeriod ≤ 256 ∧ tickRatio s ≤ 256) ∧
  (∀ (a b : Byte) (ratio : Nat), ratio ≤ 256 →
    min a.toNat b.toNat ≤ (lerp a b ratio).toNat ∧ (lerp a b ratio).toNat ≤ max a.toNat b.toNat ∧
    (lerp a b ratio).toNat ≤ 255)

/-- R152: a Blinky tick flips the direction if and only if it starts with `ELAPSED = CUR_PERIOD`. -/
def Obligations.FlipExactlyAtPeriod : Prop :=
  (∀ elapsed period : Nat, 1 ≤ period → elapsed ≤ period →
    (rawRatio elapsed period = 256 ↔ elapsed = period) ∧
    (ratioOf true (rawRatio elapsed period) = 256 ↔ elapsed = period) ∧
    (ratioOf false (rawRatio elapsed period) = 0 ↔ elapsed = period) ∧
    (ratioOf true (rawRatio elapsed period) = 0 ↔ elapsed * 256 < period)) ∧
  (∀ (p : Params) (s : State), s.curOp = .blinky → AnimationInv s →
    ((tick p s).forward ≠ s.forward ↔ s.elapsed = s.curPeriod)) ∧
  flips true 0 = false ∧ flips false 256 = false

/-- R154, R156: one half-cycle from `ELAPSED = 0` is `N = ceil(P / I) + 1` ticks, which start at `0, I, ..., (N-2)·I,
P`, keep the direction until the last, and send the colours R156 gives; the last one flips, and `2N` ticks are a cycle. -/
def Obligations.HalfCycle : Prop :=
  ∀ (p : Params) (s : State), p.Valid → s.curOp = .blinky → 1 ≤ s.curPeriod → s.elapsed = 0 →
    let P := s.curPeriod
    let I := p.refreshInterval
    let N := (P + I - 1) / I + 1
    (∀ k, k < N →
      let u := ticksAlone p k s
      let raw := min (k * I) P * 256 / P
      u.elapsed = min (k * I) P ∧ (k + 1 < N → u.elapsed = k * I) ∧ u.forward = s.forward ∧
      (tick p u).color = lerpColor s.curC0 s.curC1 (if s.forward then raw else 256 - raw) ∧
      ((tick p u).forward ≠ u.forward ↔ k + 1 = N)) ∧
    min ((N - 1) * I) P = P ∧
    (tick p s).color = (if s.forward then s.curC1 else s.curC0) ∧
    (tick p (ticksAlone p (N - 1) s)).color = (if s.forward then s.curC0 else s.curC1) ∧
    animationOf (ticksAlone p N s) = { animationOf s with forward := !s.forward } ∧
    animationOf (ticksAlone p (2 * N) s) = animationOf s ∧
    (P ≤ I → N = 2) ∧ (P = 1000000 ∧ I = 50000 → N = 21)

/-- R155: the flipping tick and the tick after it have the same ratio, 256 at a forward flip and 0 at a reverse one, and
send the same colour, `color0` and `color1`. -/
def Obligations.BoundaryColourSentTwice : Prop :=
  ∀ (p : Params) (s : State), s.curOp = .blinky → 1 ≤ s.curPeriod → s.elapsed = s.curPeriod →
    (tick p s).color = (if s.forward then s.curC0 else s.curC1) ∧
    (tick p (storeTick (tick p s) s)).color = (tick p s).color ∧
    tickRatio s = (if s.forward then 256 else 0) ∧ tickRatio (storeTick (tick p s) s) = tickRatio s

/-- R157: `lerp` is symmetric, and equal colours give that colour on every tick, while the tick still flips and sleeps
`REFRESH_INTERVAL`. -/
def Obligations.LerpSymmetry : Prop :=
  (∀ (a b : Byte) (r : Nat), r ≤ 256 → lerp a b r = lerp b a (256 - r) ∧ lerp a a r = a) ∧
  (∀ (p : Params) (s : State), s.curOp = .blinky → AnimationInv s → s.curC0 = s.curC1 →
    (tick p s).color = s.curC0 ∧ ((tick p s).forward ≠ s.forward ↔ s.elapsed = s.curPeriod) ∧
    (tick p s).nextSleep = p.refreshInterval)

/-- R158: `lerp` truncates: it is the floor of the exact weighted mean, below it by less than one; it is exact at the
two end ratios. -/
def Obligations.LerpTruncates : Prop :=
  (∀ (a b : Byte) (r : Nat), r ≤ 256 →
    256 * (lerp a b r).toNat ≤ a.toNat * r + b.toNat * (256 - r) ∧
    a.toNat * r + b.toNat * (256 - r) < 256 * ((lerp a b r).toNat + 1)) ∧
  (∀ a b : Byte, lerp a b 0 = b ∧ lerp a b 256 = a) ∧
  (lerp 255#8 0#8 12).toNat = 11

/-! ### 42 command channel -/

/-- R177: what applying `STEADY` writes, and that it writes nothing else. -/
def Obligations.SteadyApplied : Prop :=
  ∀ (c : Color) (s : State), ∃ t, exec (.steady c) s = .next t ∧
    t.curOp = .steady ∧ t.curC0 = c ∧ t.curC1 = 0x000000#24 ∧ t.curPeriod = 0 ∧
    t.forward = true ∧ t.elapsed = 0 ∧ t.phase = .tick ∧
    t.frameColor = s.frameColor ∧ t.sleepRem = s.sleepRem ∧ t.codeIdx = s.codeIdx ∧ t.q = s.q ∧
    t.faultCause = s.faultCause ∧ t.cmdRejected = s.cmdRejected ∧ t.inputs = s.inputs ∧ t.cycle = s.cycle

/-- R178: what applying `BLINKY` writes, and that it writes nothing else. -/
def Obligations.BlinkyApplied : Prop :=
  ∀ (c0 c1 : Color) (period : Nat) (s : State), 1 ≤ period →
    ∃ t, exec (.blinky c0 c1 period) s = .next t ∧
      t.curOp = .blinky ∧ t.curC0 = c0 ∧ t.curC1 = c1 ∧ t.curPeriod = period ∧
      t.forward = true ∧ t.elapsed = 0 ∧ t.phase = .tick ∧
      t.frameColor = s.frameColor ∧ t.sleepRem = s.sleepRem ∧ t.codeIdx = s.codeIdx ∧ t.q = s.q ∧
      t.faultCause = s.faultCause ∧ t.cmdRejected = s.cmdRejected ∧ t.inputs = s.inputs ∧ t.cycle = s.cycle

/-- The model's choice (log entry 7): a `BLINKY` of period 0, which "is rejected at the port and never applied" (R178),
has no meaning; and no command word decodes to it. -/
def Obligations.BlinkyZeroNeverApplied : Prop :=
  (∀ (c0 c1 : Color) (s : State), exec (.blinky c0 c1 0) s = .refused .blinkyPeriodZero) ∧
  (∀ (p : Params) (w : Nat) (c0 c1 : Color), decode p w ≠ .ok (.blinky c0 c1 0))

/-- R179: applying a command replaces the whole animation state whatever it was, and the next tick sends the command's
initial colour: the given colour for a Steady, `color1` for a Blinky. -/
def Obligations.CommandReplacesAnimation : Prop :=
  ∀ (p : Params) (i : Instr) (s t : State), exec i s = .next t →
    animationOf t = Animation.ofCommand i ∧ tickDefined t = true ∧
    (tick p t).color = (match i with | .steady c => c | .blinky _ c1 _ => c1)

/-- R172, R176: an accepted legal word goes to the tail, behind what a pop in the same cycle leaves, in every phase; a
full queue accepts nothing. -/
def Obligations.AcceptedWordIsPushed : Prop :=
  (∀ (p : Params) (s : State) (w : Nat) (i : Instr), BlockInv p s → NoReset s →
    accepted? p (currentIn s) s = some w → decode p w = .ok i →
    ∃ t, clockStep p s = .next t ∧
      t.q = (if s.phase = .race then s.q.tail else s.q) ++ [w] ∧ t.cmdRejected = s.cmdRejected ∧
      (s.phase = .race → s.q ≠ [] → t.qCount = s.qCount)) ∧
  (∀ (p : Params) (i : PortIn) (s : State), s.q.length = 2 → accepted? p i s = none) ∧
  (∀ (p : Params) (i : PortIn) (s : State), i.rst = false → i.cmdValid = true → s.q.length < 2 →
    i.cmdData < 2 ^ p.cmdW → accepted? p i s = some i.cmdData)

/-- R173: an accepted illegal word sets `CMD_REJECTED`, and the cycle is otherwise the one without the offer. -/
def Obligations.IllegalWordIsDiscarded : Prop :=
  ∀ (p : Params) (s : State) (w : Nat) (e : DecodeReject), BlockInv p s → NoReset s →
    accepted? p (currentIn s) s = some w → decode p w = .error e →
    ∃ t, clockStep p s = .next t ∧ t.cmdRejected = true ∧
      t.q = (if s.phase = .race then s.q.tail else s.q) ∧
      clockStep p { s with inputs := { currentIn s with cmdValid := false } :: s.inputs.tail } =
        .next { t with cmdRejected := s.cmdRejected }

/-- R76(a), R170, R181: over any run without a reset, the words applied are the words accepted, in order, each exactly
once: what was queued and what is accepted is what is applied and what is left. -/
def Obligations.CommandsAreFifo : Prop :=
  ∀ (p : Params) (n : Nat) (s t : State), stateAfter p n s = some t → Throughout p n s NoReset →
    s.q ++ wordsQueued p n s = wordsApplied p n s ++ t.q

/-- R277: the best case of a command's latency: accepted in cycle `t` in an idle race, applied in `t + 1`, ticked in
`t + 2`, its first code offered in `t + 3`. -/
def Obligations.CommandLatency : Prop :=
  ∀ (p : Params) (s : State) (w : Nat) (cmd : Instr), s.phase = .race → s.q = [] → s.sleepRem ≠ 0 →
    accepted? p (currentIn s) s = some w → decode p w = .ok cmd →
    ∃ t1, clockStep p s = .next t1 ∧ t1.phase = .race ∧ t1.q = [w] ∧ animationOf t1 = animationOf s ∧
      (NoReset t1 → ∃ t2, clockStep p t1 = .next t2 ∧ t2.phase = .tick ∧ animationOf t2 = Animation.ofCommand cmd ∧
        (NoReset t2 → ∃ t3, clockStep p t2 = .next t3 ∧ t3.phase = .tx ∧ t3.codeIdx.toNat = 0 ∧
          t3.frameColor = (match cmd with | .steady c => c | .blinky _ c1 _ => c1)))

/-! ### 43 driver loop -/

/-- A step runs the decoded command: in a RACE cycle outside reset whose queue's head decodes to `i`, the step is `exec
i` after the pop, then the command port's part of the cycle, then the host's next cycle (R207, R247). -/
def Obligations.StepRunsTheDecodedCommand : Prop :=
  ∀ (s t : State) (w : Nat) (rest : List Nat) (i : Instr),
    s.phase = .race → NoReset s → s.q = w :: rest → decode thisHardware w = .ok i →
    exec i { s with q := rest } = .next t →
    step s = .next (nextCycle (portStep thisHardware (currentIn s) s t))

/-- R201: the PHASE table, with the reset line; in every state that meets the invariants there is a next state. -/
def Obligations.PhaseTable : Prop :=
  ∀ (p : Params) (s : State), BlockInv p s → ∃ t, clockStep p s = .next t ∧
    t.phase =
      if (currentIn s).rst then .tick
      else match s.phase with
      | .tick => .tx
      | .tx => if (currentIn s).pcReady = true ∧ s.codeIdx.toNat = 24 then .txWait else .tx
      | .txWait =>
        if (currentIn s).txRespValid then (if (currentIn s).txRespFail then .halt else .race) else .txWait
      | .race => if 0 < s.q.length then .tick else if s.sleepRem = 0 then .tick else .race
      | .halt => .halt

/-- R202: what the TICK phase writes, and that it writes nothing else but what the command port does. -/
def Obligations.TickPhaseWrites : Prop :=
  ∀ (p : Params) (s : State), AnimationInv s → s.phase = .tick → NoReset s →
    ∃ t, clockStep p s = .next t ∧
      t.frameColor = (tick p s).color ∧ t.sleepRem = (tick p s).nextSleep ∧ t.forward = (tick p s).forward ∧
      t.elapsed = (tick p s).elapsed ∧ t.codeIdx.toNat = 0 ∧ t.phase = .tx ∧
      t.curOp = s.curOp ∧ t.curC0 = s.curC0 ∧ t.curC1 = s.curC1 ∧ t.curPeriod = s.curPeriod ∧
      t.faultCause = s.faultCause ∧ t.q = s.q ++ (queuedWord? p s).toList

/-- R203: a TX cycle: with `pc_ready = 1` the offered code is taken and the index advances, or the frame is handed over;
with `pc_ready = 0` nothing changes. -/
def Obligations.TxPhaseHandsOver : Prop :=
  ∀ (p : Params) (s : State), CodeIndexInv s → s.phase = .tx → NoReset s →
    ∃ t, clockStep p s = .next t ∧
      animationOf t = animationOf s ∧ t.frameColor = s.frameColor ∧ t.sleepRem = s.sleepRem ∧
      t.faultCause = s.faultCause ∧
      ((currentIn s).pcReady = true → takenCode? p s = some (frameCode p s.frameColor s.codeIdx) ∧
        (s.codeIdx.toNat = 24 → t.phase = .txWait ∧ t.codeIdx = s.codeIdx) ∧
        (s.codeIdx.toNat < 24 → t.phase = .tx ∧ t.codeIdx.toNat = s.codeIdx.toNat + 1)) ∧
      ((currentIn s).pcReady = false → takenCode? p s = none ∧ t.phase = .tx ∧ t.codeIdx = s.codeIdx)

/-- R203: whatever the sink's pauses, the codes taken from the first TX cycle of a frame to its last are exactly the
frame's 25 codes in index order, none repeated and none skipped. -/
def Obligations.FrameHandedOverInOrder : Prop :=
  ∀ (p : Params) (n : Nat) (s t : State), s.phase = .tx → s.codeIdx = 0#5 →
    stateAfter p n s = some t → Throughout p n s NoReset → Throughout p n s (fun u => u.phase = .tx) →
    t.phase = .txWait → codesTaken p n s = encodeFrame p s.frameColor

/-- R205: a TXWAIT cycle: success goes to RACE, no response waits; nothing else changes but what the command port
does. -/
def Obligations.ResponseEndsTheWait : Prop :=
  ∀ (p : Params) (s : State), s.phase = .txWait → NoReset s →
    ((currentIn s).txRespValid = true → (currentIn s).txRespFail = false →
      ∃ t, clockStep p s = .next t ∧ t.phase = .race ∧ animationOf t = animationOf s ∧
        t.frameColor = s.frameColor ∧ t.sleepRem = s.sleepRem ∧ t.codeIdx = s.codeIdx ∧ t.faultCause = s.faultCause) ∧
    ((currentIn s).txRespValid = false →
      ∃ t, clockStep p s = .next t ∧ t.phase = .txWait ∧ animationOf t = animationOf s ∧
        t.frameColor = s.frameColor ∧ t.sleepRem = s.sleepRem ∧ t.codeIdx = s.codeIdx ∧ t.faultCause = s.faultCause)

/-- R206, R74, R103, R174: inputs outside their phase have no effect, nor has a command that is not accepted: two cycles
whose inputs agree on `rst`, on the inputs the phase reads, and on what the command port accepts are the same step. -/
def Obligations.InputsOutsideTheirPhaseIgnored : Prop :=
  ∀ (p : Params) (s : State) (j : PortIn),
    j.rst = (currentIn s).rst →
    (s.phase = .tx → j.pcReady = (currentIn s).pcReady) →
    (s.phase = .txWait → j.txRespValid = (currentIn s).txRespValid ∧
      (j.txRespValid = true → j.txRespFail = (currentIn s).txRespFail)) →
    (s.phase = .race → s.q = [] → j.timeTick = (currentIn s).timeTick) →
    accepted? p j s = accepted? p (currentIn s) s →
    clockStep p { s with inputs := j :: s.inputs.tail } = clockStep p s

/-- R207, R210, R211: the RACE arbiter: a waiting command wins whatever the timer holds, and leaves it; then an expired
timer; then the timer counts. -/
def Obligations.RaceArbiter : Prop :=
  ∀ (p : Params) (s : State), QueueInv p s → s.phase = .race → NoReset s →
    ∃ t, clockStep p s = .next t ∧
      t.frameColor = s.frameColor ∧ t.codeIdx = s.codeIdx ∧ t.faultCause = s.faultCause ∧
      (∀ w rest, s.q = w :: rest → ∃ cmd, decode p w = .ok cmd ∧ animationOf t = Animation.ofCommand cmd ∧
        t.q = rest ++ (queuedWord? p s).toList ∧ t.sleepRem = s.sleepRem ∧ t.phase = .tick) ∧
      (s.q = [] → animationOf t = animationOf s ∧ t.q = (queuedWord? p s).toList) ∧
      (s.q = [] → s.sleepRem = 0 → t.phase = .tick ∧ t.sleepRem = s.sleepRem) ∧
      (s.q = [] → 0 < s.sleepRem → t.phase = .race ∧
        t.sleepRem = s.sleepRem - (if (currentIn s).timeTick then 1 else 0))

/-- R208, R209: the timer: while no command comes, a race that starts with `S` units left stays in RACE with one unit
less for each `time_tick` seen, and ends in the first cycle after the `S`-th. -/
def Obligations.TimerExpiry : Prop :=
  ∀ (p : Params) (n : Nat) (s : State),
    let ticksSeen := fun k => (gather p (fun u => if (currentIn u).timeTick then some () else none) k s).length
    s.phase = .race → s.q = [] →
    Throughout p n s (fun u => NoReset u ∧ queuedWord? p u = none) →
    (∀ k, k < n → ticksSeen k < s.sleepRem) →
    ∃ t, stateAfter p n s = some t ∧ t.phase = .race ∧ t.q = [] ∧
      t.sleepRem + ticksSeen n = s.sleepRem ∧ animationOf t = animationOf s ∧
      (ticksSeen n = s.sleepRem → NoReset t →
        ∃ u, clockStep p t = .next u ∧ u.phase = .tick ∧ animationOf u = animationOf s)

/-- R76, R212, R128: commands never touch a frame in flight: two runs that agree on everything but the queue, the
rejection bit and the command port send the same codes and keep the same registers for as long as they have not reached
RACE. -/
def Obligations.CommandsNeverTouchTheFrame : Prop :=
  ∀ (p : Params) (n : Nat) (s s' t t' : State),
    { s' with q := s.q, cmdRejected := s.cmdRejected, inputs := s.inputs } = s →
    stateAfter p n s = some t → stateAfter p n s' = some t' →
    Throughout p n s (fun u => u.phase ≠ .race) →
    (∀ k, k < n → ∀ u u', stateAfter p k s = some u → stateAfter p k s' = some u' →
      { currentIn u' with cmdValid := (currentIn u).cmdValid, cmdData := (currentIn u).cmdData } = currentIn u) →
    codesTaken p n s = codesTaken p n s' ∧
    { t' with q := t.q, cmdRejected := t.cmdRejected, inputs := t.inputs } = t

/-- R200, R217: the cycle-level phases refine the iteration: from one TICK to the next, outside reset, the codes taken
are the frame of the tick's colour, and the race ends with the first command queued before its last cycle, or, with
none, with the timer. -/
def Obligations.CyclesRefineIteration : Prop :=
  ∀ (p : Params) (n : Nat) (s t : State), s.phase = .tick → t.phase = .tick →
    stateAfter p (n + 1) s = some t → Throughout p (n + 1) s NoReset →
    (∀ k u, 0 < k → k < n + 1 → stateAfter p k s = some u → u.phase ≠ .tick) →
    codesTaken p (n + 1) s = encodeFrame p (iterationColor p s) ∧
    match s.q ++ wordsQueued p n s with
    | [] => animationOf t = iterationEnd p s .timer ∧ wordsApplied p (n + 1) s = []
    | w :: _ => ∃ cmd, decode p w = .ok cmd ∧ animationOf t = iterationEnd p s (.command cmd) ∧
        wordsApplied p (n + 1) s = [w]

/-- R216: outside reset no iteration is shorter than 28 cycles, and with a ready sink that answers at once and a command
waiting it takes exactly 28. -/
def Obligations.ShortestIteration : Prop :=
  (∀ (p : Params) (n : Nat) (s t : State), s.phase = .tick → t.phase = .tick → 0 < n →
    stateAfter p n s = some t → Throughout p n s NoReset → 28 ≤ n) ∧
  (∀ (p : Params) (s : State), p.Valid → BlockInv p s → s.phase = .tick → s.q ≠ [] →
    Throughout p 28 s (fun u => NoReset u ∧ (currentIn u).pcReady = true ∧ (currentIn u).txRespValid = true ∧
      (currentIn u).txRespFail = false) →
    ∃ t, stateAfter p 28 s = some t ∧ t.phase = .tick)

/-- R141, R177: with no command accepted and no reset, a Steady keeps its colour for ever, and every frame from the next
tick on encodes exactly it. -/
def Obligations.SteadyHoldsItsColour : Prop :=
  ∀ (p : Params) (n : Nat) (s t : State), s.curOp = .steady → s.phase = .tick → s.q = [] →
    stateAfter p n s = some t → Throughout p n s (fun u => NoReset u ∧ queuedWord? p u = none) → 0 < n →
    t.curOp = .steady ∧ t.curC0 = s.curC0 ∧ t.frameColor = s.curC0 ∧ t.q = []

/-! ### 60 exceptions -/

/-- R242: taking `TX_FAIL`: `PHASE` and `FAULT_CAUSE` are written and every other register keeps its value, `CODE_IDX`
at 24; the command port still acts in the same cycle (R247). -/
def Obligations.TxFailEntry : Prop :=
  ∀ (p : Params) (s : State), FrameDoneInv s → s.phase = .txWait → NoReset s →
    (currentIn s).txRespValid = true → (currentIn s).txRespFail = true →
    ∃ t, clockStep p s = .next t ∧ t.phase = .halt ∧ t.faultCause.code = 1#2 ∧
      animationOf t = animationOf s ∧ t.frameColor = s.frameColor ∧ t.sleepRem = s.sleepRem ∧
      t.codeIdx = s.codeIdx ∧ t.codeIdx.toNat = 24 ∧ t.q = s.q ++ (queuedWord? p s).toList ∧
      (accepted? p (currentIn s) s = none → t.q = s.q ∧ t.cmdRejected = s.cmdRejected)

/-- R44, R240: `FAULT_CAUSE` is written only by a failure response taken in TXWAIT, with the code 1, and cleared only by
reset. -/
def Obligations.FaultCauseWrittenOnlyByTxFail : Prop :=
  ∀ (p : Params) (s t : State), clockStep p s = .next t → t.faultCause ≠ s.faultCause →
    ((currentIn s).rst = true ∧ t.faultCause.code = 0#2) ∨
    (takenResponse? p s = some true ∧ t.faultCause.code = 1#2)

/-- R214, R243 to R245: HALT is quiescent until reset: for any number of cycles outside reset every register keeps its
value, no code is taken and nothing is popped; the command port only adds words to the queue, up to two. -/
def Obligations.HaltUntilReset : Prop :=
  ∀ (p : Params) (n : Nat) (s : State), s.phase = .halt → s.q.length ≤ 2 → Throughout p n s NoReset →
    ∃ t, stateAfter p n s = some t ∧ t.phase = .halt ∧ t.faultCause = s.faultCause ∧
      animationOf t = animationOf s ∧ t.frameColor = s.frameColor ∧ t.sleepRem = s.sleepRem ∧
      t.codeIdx = s.codeIdx ∧ t.q = s.q ++ wordsQueued p n s ∧ t.q.length ≤ 2 ∧
      codesTaken p n s = [] ∧ wordsApplied p n s = [] ∧
      (outputs p (currentIn t).rst t).pcValid = false ∧ (outputs p (currentIn t).rst t).txRespReady = false ∧
      (outputs p (currentIn t).rst t).halted = true

/-- R97, R149, R241: no run that starts in a state that meets the invariants ever stops: no fault of the model and no
refusal is reachable. -/
def Obligations.NoStepStops : Prop :=
  ∀ (p : Params) (n : Nat) (s : State), p.Valid → BlockInv p s → ∃ t, stateAfter p n s = some t ∧ BlockInv p t

/-! ### 70 reset -/

/-- R270: a reset cycle, from any state: every register takes its reset value and no handshake completes. -/
def Obligations.ResetFromAnyState : Prop :=
  ∀ (p : Params) (s : State), (currentIn s).rst = true →
    (∃ t, clockStep p s = .next t ∧
      { t with inputs := State.reset.inputs, cycle := State.reset.cycle } = State.reset) ∧
    accepted? p (currentIn s) s = none ∧ takenCode? p s = none ∧ takenResponse? p s = none

/-- R273: the first iteration after reset, with a sink that is always ready and answers at once: the first code is
offered in cycle 1, the frame is 24 ZERO and RESET, TXWAIT is cycle 26, and RACE starts in cycle 27 with `STEADY_SLEEP`,
whatever the command port does meanwhile. -/
def Obligations.FirstIterationAfterReset : Prop :=
  ∀ (p : Params) (l : List PortIn), l.length = 27 →
    (∀ i ∈ l, i.rst = false ∧ i.pcReady = true ∧ i.txRespValid = true ∧ i.txRespFail = false) →
    (∃ t, stateAfter p 1 { State.reset with inputs := l } = some t ∧ t.phase = .tx ∧ t.codeIdx.toNat = 0) ∧
    codesTaken p 27 { State.reset with inputs := l } = List.replicate 24 (zeroCode p) ++ [resetCode p] ∧
    (∃ t, stateAfter p 26 { State.reset with inputs := l } = some t ∧ t.phase = .txWait) ∧
    ∃ t, stateAfter p 27 { State.reset with inputs := l } = some t ∧ t.phase = .race ∧
      t.sleepRem = p.steadySleep
end

