-- ==== Sys2Proof/Laws/PerInstr.lean ====
section
/-! SUPPORT. Facts stated per command: the encoder's word lies in its own row of spec/opcode_table.json. -/

namespace Sys2Proof.Laws.TableRow

open Sys2Proof.Config

/-- The table's match value of a command's row, under the one mask of its rows, which keeps the `OP` bit: at the
default `DUR_W` they are 0x0_000000_000000_00000000 and 0x1_000000_000000_00000000 (R105). -/
def rowMatch (p : Params) : Instr → Nat
  | .steady _ => 0
  | .blinky _ _ _ => 2 ^ (p.durW + 48)

/-- The word of a well-formed command is one of the port, and its `OP` bit, in place, is its row's match value. -/
def Statement (i : Instr) : Prop :=
  ∀ p : Params, i.wellFormed p = true →
    encode p i < 2 ^ p.cmdW ∧ bits (encode p i) (p.durW + 48) 1 * 2 ^ (p.durW + 48) = rowMatch p i

theorem steady (c : Color) : Statement (.steady c) := by
  intro p _
  have h : 0 < 2 ^ p.durW := Nat.two_pow_pos _
  have hop := cmdOp_packCmd false c 0#24 h
  refine ⟨packCmd_lt false c 0#24 h, ?_⟩
  have hlt := bits_lt (packCmd p false c 0#24 0) (p.durW + 48) 1
  simp only [cmdOp, beq_eq_false_iff_ne] at hop
  rw [encode, rowMatch, show bits (packCmd p false c 0#24 0) (p.durW + 48) 1 = 0 by omega, Nat.zero_mul]

theorem blinky (color0 color1 : Color) (period : Nat) : Statement (.blinky color0 color1 period) := by
  intro p hwf
  have h : period < 2 ^ p.durW := by
    simp only [Instr.wellFormed, Bool.and_eq_true, decide_eq_true_eq] at hwf
    exact hwf.2
  have hop := cmdOp_packCmd true color0 color1 h
  refine ⟨packCmd_lt true color0 color1 h, ?_⟩
  simp only [cmdOp, beq_iff_eq] at hop
  rw [encode, rowMatch, hop, Nat.one_mul]

end Sys2Proof.Laws.TableRow
end

