-- ==== Sys2Proof/Tests/Slice0.lean ====
section
/-! SUPPORT. Tests of the model against the spec's own tables and worked examples (each test names its source), and for
every obligation that has hypotheses a concrete state that meets all of them. -/

namespace Sys2Proof.Tests

-- One test after another: each waits for the kernel, and all at once they would need a thread each.
set_option Elab.async false

open Sys2Proof Sys2Proof.Machine Sys2Proof.Config

/-! ### Small states -/

/-- A state whose coming cycles have the given inputs, in the given phase. -/
def inPhase (phase : Phase) (inputs : List PortIn) : State := { State.reset with phase := phase, inputs := inputs }

/-- A quiet cycle in which a producer offers a word. -/
def offering (w : Nat) : PortIn := { PortIn.quiet with cmdValid := true, cmdData := w }

/-- A quiet cycle in which the sink takes a code, and answers success. -/
def sinkReady : PortIn := { PortIn.quiet with pcReady := true, txRespValid := true }

/-- `STEADY #0000FF`. -/
def steadyWord : Nat := 0x00000FF00000000000000

/-- `BLINKY #FF0000, #00FF00, 1000000`. -/
def blinkyWord : Nat := 0x1FF000000FF00000F4240

/-- The illegal word of R109. -/
def illegalWord : Nat := 0x1000000FFFFFF00000000

/-- A Blinky at a given point of its crossfade, in TICK. -/
def fading (c0 c1 : Color) (period elapsed : Nat) (forward : Bool) : State :=
  { inPhase .tick [PortIn.quiet] with
    curOp := .blinky, curC0 := c0, curC1 := c1, curPeriod := period, elapsed := elapsed, forward := forward }

/-- One field of the state a step answers. -/
def after {α : Type} (f : State → α) (s : State) : Option α := (nextState? (step s)).map f

/-! ### Well-formedness (R105) -/

/-- R105: the first check of `Instr.wellFormed` refuses a Blinky of period 0. -/
theorem test_wellFormed_refuses_period_zero :
    Instr.wellFormed thisHardware (.blinky 0xFF0000#24 0x00FF00#24 0) = false := by decide

/-- R107: the second refuses a period that does not fit in `DUR_W` bits. -/
theorem test_wellFormed_refuses_wide_period :
    Instr.wellFormed thisHardware (.blinky 0xFF0000#24 0x00FF00#24 4294967296) = false := by decide +kernel

/-- The smallest and the largest period. -/
theorem test_wellFormed_period_range :
    Instr.wellFormed thisHardware (.blinky 0#24 0#24 1) = true ∧
    Instr.wellFormed thisHardware (.blinky 0#24 0#24 4294967295) = true := by decide +kernel

/-! ### Decoding: words written out from the field table of R91 -/

/-- R91, R177's example: OP = 0, C0 = 0000FF, C1 = 0, PERIOD = 0. -/
theorem test_decode_steady : decode thisHardware steadyWord = .ok (.steady 0x0000FF#24) := by decide

/-- R91 bit by bit: OP 0; r 10010000, g 00000011, b 11000001; then 56 bits that a STEADY ignores, all 1. -/
theorem test_decode_steady_bits :
    decode thisHardware (0b0#1 ++ 0b10010000#8 ++ 0b00000011#8 ++ 0b11000001#8 ++ 0xFFFFFF#24 ++
      0xFFFFFFFF#32).toNat =
      .ok (.steady 0x9003C1#24) := by decide

/-- R91 bit by bit: OP 1; color0 r 00000001, g 00000010, b 00000011; color1 r 10000000, g 01000000, b 00100000; period
0x80000001. -/
theorem test_decode_blinky_bits :
    decode thisHardware (0b1#1 ++ 0b00000001#8 ++ 0b00000010#8 ++ 0b00000011#8 ++ 0b10000000#8 ++ 0b01000000#8 ++
      0b00100000#8 ++ 0b10000000000000000000000000000001#32).toNat =
      .ok (.blinky 0x010203#24 0x804020#24 0x80000001) := by decide

/-- L2-D1: the largest period. -/
theorem test_decode_blinky_ones :
    decode thisHardware 0x1FFFFFFFFFFFFFFFFFFFF = .ok (.blinky 0xFFFFFF#24 0xFFFFFF#24 4294967295) := by decide

/-- L2-D1: `PERIOD = 0` is illegal whatever the colours. -/
theorem test_decode_illegal : decode thisHardware 0x112345665432100000000 = .error .blinkyPeriodZero := by decide

/-- R91 at `DUR_W = 16`, a word of 65 bits (R12): OP 1, C0 FF0000, C1 00FF00, PERIOD 0x03E8. -/
theorem test_decode_other_width :
    decode { thisHardware with durW := 16 } (0b1#1 ++ 0xFF0000#24 ++ 0x00FF00#24 ++ 0x03E8#16).toNat =
      .ok (.blinky 0xFF0000#24 0x00FF00#24 1000) ∧
    decode { thisHardware with durW := 16 } (2 ^ 65) = .error .widerThanPort := by decide +kernel

/-- R107: the encoder writes the words of R109. -/
theorem test_encode :
    encode thisHardware (.steady 0xFF8000#24) = 0x0FF800000000000000000 ∧
    encode thisHardware (.blinky 0xFF0000#24 0x00FF00#24 1000000) = blinkyWord := by decide

/-- The table's numbering: 81 bits in 11 bytes, the bits above the port's 0. -/
theorem test_decodeTableWord :
    decodeTableWord 88 0x1FF000000FF00000F4240 = some (.blinky 0xFF0000#24 0x00FF00#24 1000000) ∧
    decodeTableWord 81 0x00000FF00000000000000 = some (.steady 0x0000FF#24) ∧
    decodeTableWord 88 (2 ^ 81) = none := by decide +kernel

/-- R107: a period written with `0x`, and one too wide for `DUR_W` bits. -/
theorem test_assemble_periods :
    assemble thisHardware "BLINKY #FF0000, #00FF00, 0xF4240".toList = some blinkyWord ∧
    assemble thisHardware "BLINKY #FF0000, #00FF00, 4294967296".toList = none := by decide +kernel

/-! ### Commands: one step each -/

/-- R177's example, as the very next step after `withFetchWord` from reset. -/
theorem test_steady_runs :
    after (fun t => (t.curOp, t.curC0, t.phase, t.q)) (State.reset.withFetchWord 88 0x00000FF00000000000000) =
    some (.steady, 0x0000FF#24, .tick, []) := by decide +kernel

/-- R177, R179: the old animation is gone, and the next command waits. -/
theorem test_steady_replaces :
    after (fun t => (t.curC1, t.curPeriod, t.forward, t.elapsed, t.q))
      { fading 0xFF0000#24 0x00FF00#24 9 5 false with phase := .race, q := [steadyWord, blinkyWord] } =
    some (0#24, 0, true, 0, [blinkyWord]) := by decide +kernel

/-- R178's example, as the very next step after `withFetchWord` from reset. -/
theorem test_blinky_runs :
    after (fun t => (t.curOp, t.curC0, t.curC1, t.curPeriod, t.forward, t.elapsed))
      (State.reset.withFetchWord 88 0x1FF000000FF00000F4240) =
    some (.blinky, 0xFF0000#24, 0x00FF00#24, 1000000, true, 0) := by decide +kernel

/-- R210: with `SLEEP_REM = 0` too, the command wins the tie; the next tick shows `color1` (R178). -/
theorem test_blinky_wins_tie :
    after (fun t => (t.phase, t.curOp, (tick thisHardware t).color))
      { inPhase .race [PortIn.quiet] with q := [blinkyWord], sleepRem := 0 } =
    some (.tick, .blinky, 0x00FF00#24) := by decide +kernel

/-- R173: an illegal word is met at the port, discarded, and shown by `CMD_REJECTED` only. -/
theorem test_illegal_rejected :
    after (fun t => (t.cmdRejected, t.q)) (State.reset.withFetchWord 88 0x1000000FFFFFF00000000) =
    some (true, []) := by decide +kernel

/-! ### The command port (R171 to R176) -/

/-- R176: push and pop in one cycle: the head goes, the new word stands behind the rest. -/
theorem test_push_and_pop :
    after (fun t => t.q) { inPhase .race [offering blinkyWord] with q := [steadyWord] } = some [blinkyWord] := by
  decide +kernel

/-- R176: a full queue accepts nothing, even in a cycle that pops. -/
theorem test_full_queue_refuses :
    after (fun t => t.q) { inPhase .race [offering blinkyWord] with q := [steadyWord, steadyWord] } =
      some [steadyWord] := by
  decide +kernel

/-- R182: the port still works in HALT. -/
theorem test_halt_accepts :
    after (fun t => (t.phase, t.q)) { inPhase .halt [offering blinkyWord] with faultCause := .txFail } =
    some (.halt, [blinkyWord]) := by decide +kernel

/-! ### Phases -/

/-- L2-A3: a Steady tick. -/
theorem test_tick_steady :
    after (fun t => (t.frameColor, t.sleepRem, t.forward, t.elapsed, t.phase))
      { inPhase .tick [PortIn.quiet] with curC0 := 0x123456#24, forward := false, elapsed := 7 } =
    some (0x123456#24, 3600000000, false, 7, .tx) := by decide +kernel

/-- R142's example. -/
theorem test_tick_blinky :
    after (fun t => (t.frameColor, t.elapsed, t.forward, t.sleepRem))
      (fading 0xFF0000#24 0x00FF00#24 1000000 500000 true) =
    some (0x7F7F00#24, 550000, true, 50000) := by decide +kernel

/-- L2-T2: `P = 2^32 - 1`, `E = P - 1`, forward: the sum of the advance exceeds 32 bits before the minimum. -/
theorem test_tick_wide :
    after (fun t => (t.frameColor, t.elapsed, t.forward))
      (fading 0xFF0000#24 0x00FF00#24 4294967295 4294967294 true) =
    some (0xFE0000#24, 4294967295, true) := by decide +kernel

/-- L2-T1, tick 41: the reverse flip shows `color1`. -/
theorem test_tick_reverse_flip :
    after (fun t => (t.frameColor, t.elapsed, t.forward))
      (fading 0xFF0000#24 0x00FF00#24 1000000 1000000 false) =
    some (0x00FF00#24, 0, true) := by decide +kernel

/-- R201, R203: the last code of a frame, and the one before it. -/
theorem test_tx_last_codes :
    after (fun t => (t.phase, t.codeIdx.toNat)) { inPhase .tx [sinkReady] with codeIdx := 24#5 } = some (.txWait, 24) ∧
    after (fun t => (t.phase, t.codeIdx.toNat)) { inPhase .tx [sinkReady] with codeIdx := 23#5 } = some (.tx, 24) := by
  decide +kernel

/-- R242: a failure response. -/
theorem test_tx_fail :
    after (fun t => (t.phase, t.faultCause.code)) (inPhase .txWait [{ sinkReady with txRespFail := true }]) =
    some (.halt, 1#2) := by decide +kernel

/-- R208, R209: one `time_tick` takes one unit; at 0 the race is over. -/
theorem test_timer :
    after (fun t => (t.phase, t.sleepRem))
      { inPhase .race [{ PortIn.quiet with timeTick := true }] with sleepRem := 1 } = some (.race, 0) ∧
    after (fun t => (t.phase, t.sleepRem)) (inPhase .race [{ PortIn.quiet with timeTick := true }]) =
      some (.tick, 0) := by decide +kernel

/-- R247(a): reset overrides a handshake and a fault in the same cycle. -/
theorem test_reset_overrides :
    after (fun t => (t.phase, t.q, t.faultCause))
      { inPhase .txWait [{ offering blinkyWord with rst := true, txRespValid := true, txRespFail := true }] with
        q := [steadyWord] } = some (.tick, [], .none) := by decide +kernel

/-! ### The encoder and the arithmetic: rows of spec/95_test_vectors.md -/

/-- L2-E3: the frame of `0x80FF01`, read as bits: green, red, blue, each most significant bit first. -/
theorem test_frame_bits :
    (encodeFrame thisHardware 0x80FF01#24).map (fun c => (pulseWord c).toNat) =
      List.replicate 8 0x00208040 ++ (0x00208040 :: List.replicate 7 0x00408020) ++
        (List.replicate 7 0x00408020 ++ [0x00208040]) ++ [0x00000FA0] := by decide +kernel

/-- L2-E1: the words at another legal setting. -/
theorem test_words_other_setting :
    pulseWord (oneCode { thisHardware with shortCycles := 28, longCycles := 56 }) = 0x001C8038#32 ∧
    pulseWord (zeroCode { thisHardware with shortCycles := 28, longCycles := 56 }) = 0x0038801C#32 := by decide +kernel

/-- L2-E4, at the two ends of each range of R127. -/
theorem test_frame_code_ends :
    [0, 2, 7, 8, 11, 15, 16, 17, 23, 24, 25, 31].map (fun i => frameCode thisHardware 0x123456#24 (BitVec.ofNat 5 i)) =
      [zeroCode thisHardware, oneCode thisHardware, zeroCode thisHardware, zeroCode thisHardware, oneCode thisHardware,
        zeroCode thisHardware, zeroCode thisHardware, oneCode thisHardware, zeroCode thisHardware,
        resetCode thisHardware, resetCode thisHardware, resetCode thisHardware] := by decide +kernel

/-- L2-A1. -/
theorem test_lerp :
    [lerp 255#8 0#8 0, lerp 255#8 0#8 1, lerp 255#8 0#8 255, lerp 255#8 0#8 256, lerp 0#8 255#8 1, lerp 0#8 255#8 256,
      lerp 128#8 64#8 200].map BitVec.toNat = [0, 0, 254, 255, 254, 0, 114] := by decide +kernel

/-- L2-A2. -/
theorem test_rawRatio :
    rawRatio 3906 1000000 = 0 ∧ rawRatio 3907 1000000 = 1 ∧
    rawRatio 4294967294 4294967295 = 255 ∧ rawRatio 4294967295 4294967295 = 256 := by decide +kernel

/-! ### Witnesses: a state and operands that meet all the hypotheses of a statement together -/

theorem witness_StepKeepsInvariants :
    ∃ s t, thisHardware.Valid ∧ BlockInv thisHardware s ∧ clockStep thisHardware s = .next t ∧ step s = .next t :=
  ⟨fading 0xFF0000#24 0x00FF00#24 1000000 1000000 true, _, by decide +kernel, by decide +kernel, rfl, rfl⟩

theorem witness_StepKeepsFrameDone : ∃ p s t, FrameDoneInv s ∧ s.phase = .race ∧ clockStep p s = .next t :=
  ⟨thisHardware, { inPhase .race [PortIn.quiet] with codeIdx := 24#5 }, _, by decide, rfl, rfl⟩

/-- One state for each clause: an idle race, and a frame being sent. -/
theorem witness_RegistersChangeOnlyInTheirPhases :
    (∃ p s t, NoReset s ∧ clockStep p s = .next t ∧ s.phase = .race ∧ s.q = []) ∧
    (∃ p s t, NoReset s ∧ clockStep p s = .next t ∧ s.phase = .txWait) :=
  ⟨⟨thisHardware, inPhase .race [PortIn.quiet], _, rfl, rfl, rfl, rfl⟩,
    ⟨thisHardware, inPhase .txWait [sinkReady], _, rfl, rfl, rfl⟩⟩

theorem witness_CmdRejectedIsSticky :
    ∃ s t w, clockStep thisHardware s = .next t ∧ accepted? thisHardware (currentIn s) s = some w ∧
      cmdOp thisHardware w = true ∧ cmdPeriod thisHardware w = 0 :=
  ⟨inPhase .tick [offering illegalWord], _, illegalWord, rfl, rfl, by decide +kernel⟩

theorem witness_DecodeEncodeRoundTrip :
    (Instr.steady 0#24).wellFormed thisHardware = true ∧
    (Instr.blinky 0#24 0#24 1).wellFormed thisHardware = true := by decide

/-- DecodeReadsTheFields: the narrowest and the widest word of the port, and one for each of the three answers. -/
theorem witness_DecodeReadsTheFields :
    (∀ w ∈ [0, 2 ^ 81 - 1, steadyWord, blinkyWord, illegalWord], w < 2 ^ thisHardware.cmdW) ∧
    steadyWord / 2 ^ 80 % 2 = 0 ∧ blinkyWord / 2 ^ 80 % 2 = 1 ∧ blinkyWord % 2 ^ 32 ≠ 0 ∧
    illegalWord / 2 ^ 80 % 2 = 1 ∧ illegalWord % 2 ^ 32 = 0 := by decide +kernel

theorem witness_EncodeOfDecodedWord : decode thisHardware 0x0123456ABCDEFDEADBEEF = .ok (.steady 0x123456#24) ∧
    decode thisHardware blinkyWord = .ok (.blinky 0xFF0000#24 0x00FF00#24 1000000) := by decide

theorem witness_AssemblerRefusesBadPeriods :
    blinkyOf? thisHardware 0#24 0#24 1 = some (.blinky 0#24 0#24 1) ∧
    blinkyOf? thisHardware 0#24 0#24 4294967295 = some (.blinky 0#24 0#24 4294967295) ∧
    blinkyOf? thisHardware 0#24 0#24 0 = none ∧ blinkyOf? thisHardware 0#24 0#24 4294967296 = none := by
  decide +kernel

theorem witness_SteadyIgnoresItsOtherFields :
    0x0123456ABCDEFDEADBEEF < 2 ^ thisHardware.cmdW ∧ 0x012345600000000000000 < 2 ^ thisHardware.cmdW ∧
    cmdOp thisHardware 0x0123456ABCDEFDEADBEEF = false ∧ cmdOp thisHardware 0x012345600000000000000 = false ∧
    cmdC0 thisHardware 0x0123456ABCDEFDEADBEEF = cmdC0 thisHardware 0x012345600000000000000 ∧
    (inPhase .race [PortIn.quiet]).phase = .race := by decide

theorem witness_PulseWordLayout : ∃ c : PulseCode, c.length1 < 2 ^ lenW ∧ c.length2 < 2 ^ lenW :=
  ⟨⟨true, 32767, false, 32767⟩, by decide, by decide⟩

/-- `p.Valid`, the hypothesis of OnlyThreeCodeWords, FrameDecodesBack, HalfCycle and the invariants' statements, at the
defaults and at the smallest parameters R10 allows. -/
theorem witness_Valid : thisHardware.Valid ∧ (Params.mk 1 1 2 1 1 1 1 1).Valid := by decide +kernel

/-- The clauses of FrameCodeIsFrameElement at the ends of their ranges. -/
theorem witness_FrameCodeIsFrameElement :
    (0#5).toNat ≤ 7 ∧ (7#5).toNat ≤ 7 ∧ 8 ≤ (8#5).toNat ∧ (15#5).toNat ≤ 15 ∧ 16 ≤ (16#5).toNat ∧
    (23#5).toNat ≤ 23 ∧ 24 ≤ (24#5).toNat ∧ (24#5).toNat ≤ 24 ∧ 24 ≤ (31#5).toNat := by decide

theorem witness_SteadyTick : (inPhase .tick []).curOp = .steady := rfl

/-- BlinkyTick, TickNeverOverflows and RatioAndLerpRanges: each of R147's three cases, at the widest period. -/
theorem witness_BlinkyTick :
    (∀ s ∈ [fading 0#24 0#24 4294967295 4294967295 true, fading 0#24 0#24 4294967295 4294967295 false,
      fading 0#24 0#24 1 0 true], s.curOp = .blinky ∧ AnimationInv s ∧ WidthInv thisHardware s) ∧
    tickRatio (fading 0#24 0#24 4294967295 4294967295 true) = 256 ∧
    tickRatio (fading 0#24 0#24 4294967295 4294967295 false) = 0 ∧
    tickRatio (fading 0#24 0#24 1 0 true) = 0 := by decide +kernel

/-- FlipExactlyAtPeriod, at the period and below it. -/
theorem witness_FlipExactlyAtPeriod :
    ∀ s ∈ [fading 0#24 0#24 1 1 true, fading 0#24 0#24 1 0 false],
      1 ≤ s.curPeriod ∧ s.elapsed ≤ s.curPeriod ∧ s.curOp = .blinky ∧ AnimationInv s := by decide

/-- HalfCycle, for `P` below, at and above the interval. -/
theorem witness_HalfCycle :
    ∀ s ∈ [fading 0xFF0000#24 0x00FF00#24 1 0 true, fading 0xFF0000#24 0x00FF00#24 50000 0 false,
      fading 0xFF0000#24 0x00FF00#24 1000000 0 true],
      s.curOp = .blinky ∧ 1 ≤ s.curPeriod ∧ s.elapsed = 0 := by decide +kernel

theorem witness_BoundaryColourSentTwice :
    ∃ s : State, s.curOp = .blinky ∧ 1 ≤ s.curPeriod ∧ s.elapsed = s.curPeriod :=
  ⟨fading 0xFF0000#24 0x00FF00#24 3 3 false, by decide⟩

/-- The ratio's range in TickNeverOverflows, RatioAndLerpRanges, LerpSymmetry and LerpTruncates, and the index ranges of
EncodeByteMsbFirst and FrameDecodesBack, at their ends. -/
theorem witness_ranges : (∀ r ∈ [0, 256], r ≤ 256) ∧ (∀ k ∈ [0, 7], k < 8) ∧ (∀ i ∈ [0, 23], i < 24) := by decide

theorem witness_LerpSymmetry :
    ∃ s : State, s.curOp = .blinky ∧ AnimationInv s ∧ s.curC0 = s.curC1 :=
  ⟨fading 0x336699#24 0x336699#24 1000000 0 true, by decide⟩

theorem witness_BlinkyApplied :
    ∃ period : Nat, 1 ≤ period ∧ (Instr.blinky 0#24 0xFFFFFF#24 period).wellFormed thisHardware = true :=
  ⟨1, by decide⟩

theorem witness_CommandReplacesAnimation :
    (∃ t, exec (.steady 0x0000FF#24) (inPhase .race []) = .next t) ∧
    (∃ t, exec (.blinky 0#24 0xFFFFFF#24 1) (inPhase .race []) = .next t) :=
  ⟨⟨_, rfl⟩, ⟨_, rfl⟩⟩

/-- AcceptedWordIsPushed and IllegalWordIsDiscarded, in RACE with one word waiting and in HALT. -/
theorem witness_AcceptedWordIsPushed :
    (∃ s w i, BlockInv thisHardware s ∧ NoReset s ∧ s.phase = .race ∧ s.q ≠ [] ∧
      accepted? thisHardware (currentIn s) s = some w ∧
      decode thisHardware w = .ok i) ∧
    (∃ s w i, BlockInv thisHardware s ∧ NoReset s ∧ s.phase = .halt ∧
      accepted? thisHardware (currentIn s) s = some w ∧ decode thisHardware w = .ok i) ∧
    (∃ s : State, s.q.length = 2) ∧
    (∃ (i : PortIn) (s : State), i.rst = false ∧ i.cmdValid = true ∧ s.q.length < 2 ∧
      i.cmdData < 2 ^ thisHardware.cmdW) :=
  ⟨⟨{ inPhase .race [offering blinkyWord] with q := [steadyWord] }, blinkyWord, _, by decide +kernel, rfl, rfl,
      by decide, rfl, rfl⟩,
    ⟨{ inPhase .halt [offering blinkyWord] with faultCause := .txFail }, blinkyWord, _, by decide +kernel, rfl, rfl,
      rfl, rfl⟩,
    ⟨{ inPhase .race [] with q := [steadyWord, steadyWord] }, rfl⟩,
    ⟨offering blinkyWord, { inPhase .race [] with q := [steadyWord] }, rfl, rfl, by decide, by decide +kernel⟩⟩

theorem witness_IllegalWordIsDiscarded :
    ∃ s w e, BlockInv thisHardware s ∧ NoReset s ∧ accepted? thisHardware (currentIn s) s = some w ∧
      decode thisHardware w = .error e :=
  ⟨{ inPhase .race [offering illegalWord] with q := [steadyWord] }, illegalWord, _, by decide +kernel, rfl, rfl, rfl⟩

/-- A run of two cycles that accepts a word and applies it. -/
theorem witness_CommandsAreFifo :
    ∃ n s t, stateAfter thisHardware n s = some t ∧ Throughout thisHardware n s NoReset ∧
      wordsQueued thisHardware n s = [blinkyWord] ∧ wordsApplied thisHardware n s = [blinkyWord] :=
  ⟨2, { inPhase .race [offering blinkyWord, PortIn.quiet] with sleepRem := 1 }, _, rfl,
    throughout_of_check (by decide +kernel), by decide +kernel, by decide +kernel⟩

theorem witness_CommandLatency :
    ∃ s w cmd, s.phase = .race ∧ s.q = [] ∧ s.sleepRem ≠ 0 ∧ accepted? thisHardware (currentIn s) s = some w ∧
      decode thisHardware w = .ok cmd :=
  ⟨{ inPhase .race [offering blinkyWord] with sleepRem := 1 }, blinkyWord, _, rfl, rfl, by decide, rfl, rfl⟩

theorem witness_StepRunsTheDecodedCommand :
    ∃ (s t : State) (w : Nat) (rest : List Nat) (i : Instr), s.phase = .race ∧ NoReset s ∧ s.q = w :: rest ∧
      decode thisHardware w = .ok i ∧ exec i { s with q := rest } = .next t :=
  ⟨{ inPhase .race [PortIn.quiet] with q := [blinkyWord] }, _, blinkyWord, [], _, rfl, rfl, rfl, rfl, rfl⟩

/-- PhaseTable and NoStepStops: every phase has a state that meets the invariants. -/
theorem witness_PhaseTable : thisHardware.Valid ∧
    ∀ s ∈ [inPhase .tick [], inPhase .tx [], inPhase .txWait [], inPhase .race [],
      { inPhase .halt [] with faultCause := FaultCause.txFail }], BlockInv thisHardware s := by decide +kernel

theorem witness_TickPhaseWrites : ∃ s, AnimationInv s ∧ s.phase = .tick ∧ NoReset s ∧ s.curOp = .blinky :=
  ⟨fading 0xFF0000#24 0x00FF00#24 1 1 true, by decide +kernel⟩

/-- TxPhaseHandsOver: the last code, the one before it, and a sink that pauses. -/
theorem witness_TxPhaseHandsOver :
    ∀ s ∈ [{ inPhase .tx [sinkReady] with codeIdx := 24#5 }, { inPhase .tx [sinkReady] with codeIdx := 23#5 },
      inPhase .tx [PortIn.quiet]], CodeIndexInv s ∧ s.phase = .tx ∧ NoReset s := by decide +kernel

theorem witness_FrameHandedOverInOrder :
    ∃ n s t, s.phase = .tx ∧ s.codeIdx = 0#5 ∧ stateAfter thisHardware n s = some t ∧
      Throughout thisHardware n s NoReset ∧ Throughout thisHardware n s (fun u => u.phase = .tx) ∧ t.phase = .txWait :=
  ⟨26, inPhase .tx (PortIn.quiet :: List.replicate 25 sinkReady), _, rfl, rfl, rfl,
    throughout_of_check (by decide +kernel), throughout_of_check (by decide +kernel), by decide +kernel⟩

theorem witness_ResponseEndsTheWait :
    ∀ s ∈ [inPhase .txWait [sinkReady], inPhase .txWait [PortIn.quiet]], s.phase = .txWait ∧ NoReset s := by
  decide +kernel

/-- InputsOutsideTheirPhaseIgnored, in TX: the two inputs differ in the response and the strobe. -/
theorem witness_InputsOutsideTheirPhaseIgnored :
    ∃ (s : State) (j : PortIn), j ≠ currentIn s ∧ j.rst = (currentIn s).rst ∧ s.phase = .tx ∧
      j.pcReady = (currentIn s).pcReady ∧ accepted? thisHardware j s = accepted? thisHardware (currentIn s) s :=
  ⟨inPhase .tx [sinkReady], { sinkReady with txRespFail := true, timeTick := true }, by decide +kernel⟩

/-- RaceArbiter: a waiting command, an expired timer, and a timer with one unit left, counting and waiting. -/
theorem witness_RaceArbiter :
    ∀ s ∈ [{ inPhase .race [PortIn.quiet] with q := [blinkyWord] }, inPhase .race [PortIn.quiet],
      { inPhase .race [{ PortIn.quiet with timeTick := true }] with sleepRem := 1 },
      { inPhase .race [PortIn.quiet] with sleepRem := 1 }],
      QueueInv thisHardware s ∧ s.phase = .race ∧ NoReset s := by decide +kernel

/-- TimerExpiry: two units, and a run of two cycles that sees both pulses. -/
theorem witness_TimerExpiry :
    ∃ n s, s.phase = .race ∧ s.q = [] ∧
      Throughout thisHardware n s (fun u => NoReset u ∧ queuedWord? thisHardware u = none) ∧
      (∀ k, k < n → (gather thisHardware (fun u => if (currentIn u).timeTick then some () else none) k s).length <
        s.sleepRem) :=
  ⟨2, { inPhase .race (List.replicate 3 { PortIn.quiet with timeTick := true }) with sleepRem := 2 }, rfl, rfl,
    throughout_of_check (by decide +kernel), by decide +kernel⟩

/-- CommandsNeverTouchTheFrame: one run is offered a command in its second cycle, the other is not. -/
theorem witness_CommandsNeverTouchTheFrame :
    ∃ n s s' t t', { s' with q := s.q, cmdRejected := s.cmdRejected, inputs := s.inputs } = s ∧
      stateAfter thisHardware n s = some t ∧ stateAfter thisHardware n s' = some t' ∧
      Throughout thisHardware n s (fun u => u.phase ≠ .race) ∧
      (∀ k, k < n → ∀ u u', stateAfter thisHardware k s = some u → stateAfter thisHardware k s' = some u' →
        { currentIn u' with cmdValid := (currentIn u).cmdValid, cmdData := (currentIn u).cmdData } = currentIn u) ∧
      t ≠ t' := by
  refine ⟨2, inPhase .tx [sinkReady, { sinkReady with cmdValid := true, cmdData := blinkyWord }],
    inPhase .tx [sinkReady, sinkReady], _, _, rfl, rfl, rfl, throughout_of_check (by decide +kernel), ?_,
    by decide +kernel⟩
  intro k hk u u' hu hu'
  obtain rfl | rfl : k = 0 ∨ k = 1 := by omega
  · cases hu
    cases hu'
    rfl
  · cases hu
    cases hu'
    rfl

/-- CyclesRefineIteration and ShortestIteration: the 28 cycles of an iteration that a waiting command ends. -/
theorem witness_CyclesRefineIteration :
    ∃ n s t, s.phase = .tick ∧ t.phase = .tick ∧ stateAfter thisHardware (n + 1) s = some t ∧
      Throughout thisHardware (n + 1) s NoReset ∧
      (∀ k u, 0 < k → k < n + 1 → stateAfter thisHardware k s = some u → u.phase ≠ .tick) := by
  refine ⟨27, { inPhase .tick (List.replicate 28 sinkReady) with q := [blinkyWord] }, _, rfl, ?_, rfl,
    throughout_of_check (by decide +kernel), ?_⟩
  · decide +kernel
  · have h : ∀ k, k < 28 → ((stateAfter thisHardware k
        { inPhase .tick (List.replicate 28 sinkReady) with q := [blinkyWord] }).all fun u =>
          decide (0 < k → u.phase ≠ .tick)) = true := by decide +kernel
    intro k u h0 h1 hu
    have := h k h1
    rw [hu] at this
    exact of_decide_eq_true this h0

theorem witness_ShortestIteration :
    ∃ s, thisHardware.Valid ∧ BlockInv thisHardware s ∧ s.phase = .tick ∧ s.q ≠ [] ∧
      Throughout thisHardware 28 s (fun u => NoReset u ∧ (currentIn u).pcReady = true ∧
        (currentIn u).txRespValid = true ∧ (currentIn u).txRespFail = false) :=
  ⟨{ inPhase .tick (List.replicate 28 sinkReady) with q := [blinkyWord] }, by decide +kernel, by decide +kernel, rfl,
    by decide,
    throughout_of_check (by decide +kernel)⟩

theorem witness_SteadyHoldsItsColour :
    ∃ n s t, s.curOp = .steady ∧ s.phase = .tick ∧ s.q = [] ∧ stateAfter thisHardware n s = some t ∧
      Throughout thisHardware n s (fun u => NoReset u ∧ queuedWord? thisHardware u = none) ∧ 0 < n :=
  ⟨2, { inPhase .tick [sinkReady, sinkReady] with curC0 := 0x123456#24 }, _, rfl, rfl, rfl, rfl,
    throughout_of_check (by decide +kernel), by decide⟩

theorem witness_TxFailEntry :
    ∃ s, FrameDoneInv s ∧ s.phase = .txWait ∧ NoReset s ∧ (currentIn s).txRespValid = true ∧
      (currentIn s).txRespFail = true :=
  ⟨{ inPhase .txWait [{ sinkReady with txRespFail := true }] with codeIdx := 24#5 }, by decide +kernel⟩

/-- FaultCauseWrittenOnlyByTxFail: both ways the register changes. -/
theorem witness_FaultCauseWrittenOnlyByTxFail :
    (∃ s t, clockStep thisHardware s = .next t ∧ t.faultCause ≠ s.faultCause ∧ t.faultCause = .none) ∧
    (∃ s t, clockStep thisHardware s = .next t ∧ t.faultCause ≠ s.faultCause ∧ t.faultCause = .txFail) :=
  ⟨⟨{ inPhase .halt [{ PortIn.quiet with rst := true }] with faultCause := .txFail }, _, rfl, by decide +kernel, rfl⟩,
    ⟨inPhase .txWait [{ sinkReady with txRespFail := true }], _, rfl, by decide +kernel, rfl⟩⟩

theorem witness_HaltUntilReset :
    ∃ n s, s.phase = .halt ∧ s.q.length ≤ 2 ∧ Throughout thisHardware n s NoReset ∧
      wordsQueued thisHardware n s = [blinkyWord] :=
  ⟨2, { inPhase .halt [PortIn.quiet, offering blinkyWord] with faultCause := .txFail }, rfl, by decide,
    throughout_of_check (by decide +kernel), by decide +kernel⟩

theorem witness_ResetFromAnyState : ∃ s, (currentIn s).rst = true ∧ s.phase = .halt :=
  ⟨inPhase .halt [{ PortIn.quiet with rst := true }], rfl, rfl⟩

theorem witness_FirstIterationAfterReset :
    ∃ l : List PortIn, l.length = 27 ∧
      ∀ i ∈ l, i.rst = false ∧ i.pcReady = true ∧ i.txRespValid = true ∧ i.txRespFail = false :=
  ⟨List.replicate 27 sinkReady, by decide +kernel⟩

end Sys2Proof.Tests
end

section
/-! The parameters and the nominal pulse times (spec/00_scope.md rules R10, R12 and R13). -/

namespace Sys2Proof.Config

/-- R13: the recomputed count is within half a cycle of the nominal time, both in half nanocycles. Half the divisor is
added before the floor division, so the remainder, which is below the divisor, leaves half of it on either side. -/
theorem nominalCycles_nearest (ns hz : Nat) :
    2 * ns * hz ≤ 2000000000 * nominalCycles ns hz + 1000000000 ∧
      2000000000 * nominalCycles ns hz ≤ 2 * ns * hz + 1000000000 := by
  have hdiv : 2000000000 * nominalCycles ns hz + (2 * ns * hz + 1000000000) % 2000000000
      = 2 * ns * hz + 1000000000 := Nat.div_add_mod _ _
  have hrem : (2 * ns * hz + 1000000000) % 2000000000 < 2000000000 := Nat.mod_lt _ (by decide)
  constructor
  · omega
  · omega

/-- R10: the defaults meet the constraints of the table. -/
theorem thisHardware_valid : thisHardware.Valid := by decide

/-- R13: at the default clock the recomputed pulse lengths are the default ones. -/
theorem thisHardware_atClock_default : thisHardware.atClock 80000000 = thisHardware := by decide

/-- Settles O1: the facts about the defaults are computed; the rounding holds for every nominal time and clock. -/
theorem defaultsAreNominalTimes : Obligations.DefaultsAreNominalTimes :=
  ⟨thisHardware_valid, thisHardware_atClock_default, rfl, nominalCycles_nearest⟩

end Sys2Proof.Config
end

section
/-! The reset values and the output equations (spec/10_state.md rules R52 and R55). -/

namespace Sys2Proof.Machine

open Sys2Proof.Config

/-- Settles O2: each field of the reset state is the table's value. -/
theorem resetValues : Obligations.ResetValues :=
  ⟨rfl, rfl, rfl, rfl, rfl, rfl, rfl, rfl, rfl, rfl, rfl, rfl, rfl, rfl, rfl⟩

section
variable (p : Params) (rst : Bool) (s : State)

@[simp] theorem outputs_cmdReady : (outputs p rst s).cmdReady = true ↔ s.q.length < 2 ∧ rst = false := by
  simp [outputs, cmdReady]

@[simp] theorem outputs_pcValid : (outputs p rst s).pcValid = true ↔ s.phase = .tx ∧ rst = false := by
  simp [outputs]

@[simp] theorem outputs_pcLast : (outputs p rst s).pcLast = true ↔ s.phase = .tx ∧ s.codeIdx.toNat = 24 := by
  simp [outputs, ← codeIdx_eq_last]

@[simp] theorem outputs_txRespReady :
    (outputs p rst s).txRespReady = true ↔ s.phase = .txWait ∧ rst = false := by
  simp [outputs]

@[simp] theorem outputs_halted : (outputs p rst s).halted = true ↔ s.phase = .halt := by
  simp [outputs, halted]

end

/-- Settles O3: the five one-bit functions of the state by their own lemmas, the three registers as they are driven. -/
theorem outputEquations : Obligations.OutputEquations := fun p rst s =>
  ⟨outputs_cmdReady p rst s, outputs_pcValid p rst s, rfl, outputs_pcLast p rst s, outputs_txRespReady p rst s,
    outputs_halted p rst s, rfl, rfl⟩

/-- R103, R205: a response is accepted exactly in a TXWAIT cycle outside reset in which the sink offers one. -/
theorem takenResponse?_eq_some_iff (p : Params) (s : State) (failed : Bool) :
    takenResponse? p s = some failed ↔
      s.phase = .txWait ∧ (currentIn s).rst = false ∧ (currentIn s).txRespValid = true ∧
        (currentIn s).txRespFail = failed := by
  simp [takenResponse?, and_assoc]

end Sys2Proof.Machine
end

section
/-! What each phase may write (spec/10_state.md rules R32 to R40, R44), and `CMD_REJECTED`, which only the command port
writes (R45). -/

namespace Sys2Proof.Machine

open Sys2Proof.Config

/-- The registers a phase may write, phase by phase: TICK stores a tick's result and starts the frame; TX moves
`CODE_IDX`; TXWAIT may record the fault; RACE applies a waiting command, or else counts `SLEEP_REM`; HALT writes
nothing. -/
theorem sequencer_writes {p : Params} {i : PortIn} {s t : State} (h : sequencer p i s = .next t) :
    (s.phase = .tick ∧ t = { storeTick (tick p s) s with codeIdx := 0#5, phase := .tx }) ∨
    (s.phase = .tx ∧ ∃ phase codeIdx, t = { s with phase := phase, codeIdx := codeIdx }) ∨
    (s.phase = .txWait ∧ ∃ phase cause, t = { s with phase := phase, faultCause := cause }) ∨
    (s.phase = .race ∧ s.q ≠ [] ∧
      ∃ op c0 c1 period, t = replaceAnimation op c0 c1 period { s with q := s.q.tail }) ∨
    (s.phase = .race ∧ s.q = [] ∧ ∃ phase sleepRem, t = { s with phase := phase, sleepRem := sleepRem }) ∨
    (s.phase = .halt ∧ t = s) := by
  cases hp : s.phase with
  | tick =>
    rw [sequencer_tick hp, phaseTick_next_iff] at h
    exact .inl ⟨rfl, h.2⟩
  | tx =>
    rw [sequencer_tx hp, phaseTx_next_iff] at h
    refine .inr (.inl ⟨rfl, ?_⟩)
    obtain ⟨-, -, rfl⟩ | ⟨-, -, rfl⟩ | ⟨-, rfl⟩ := h <;> exact ⟨_, _, rfl⟩
  | txWait =>
    rw [sequencer_txWait hp, phaseTxWait_next_iff] at h
    refine .inr (.inr (.inl ⟨rfl, ?_⟩))
    obtain ⟨-, -, rfl⟩ | ⟨-, -, rfl⟩ | ⟨-, rfl⟩ := h <;> exact ⟨_, _, rfl⟩
  | race =>
    rw [sequencer_race hp, phaseRace_next_iff] at h
    obtain ⟨w, rest, cmd, hq, -, hexec⟩ | ⟨hq, -, rfl⟩ | ⟨hq, -, -, rfl⟩ | ⟨hq, -, -, rfl⟩ := h
    · refine .inr (.inr (.inr (.inl ⟨rfl, by simp [hq], ?_⟩)))
      obtain ⟨c, -, rfl⟩ | ⟨c0, c1, period, -, -, rfl⟩ := (exec_next_iff _ _ _).mp hexec <;>
        exact ⟨_, _, _, _, by rw [hq]; rfl⟩
    all_goals exact .inr (.inr (.inr (.inr (.inl ⟨rfl, hq, _, _, rfl⟩))))
  | halt =>
    rw [sequencer_halt hp] at h
    cases h
    exact .inr (.inr (.inr (.inr (.inr ⟨rfl, rfl⟩))))

/-- Settles O7: the port's part of the cycle touches none of these registers, and the sequencer's part is one of the six
writes above. -/
theorem registersChangeOnlyInTheirPhases : Obligations.RegistersChangeOnlyInTheirPhases := by
  intro p s t hrst h
  obtain ⟨u, hu, rfl⟩ := (clockStep_next_iff p hrst t).mp h
  obtain ⟨hp, rfl⟩ | ⟨hp, phase, idx, rfl⟩ | ⟨hp, phase, cause, rfl⟩ | ⟨hp, hq, op, c0, c1, period, rfl⟩ |
    ⟨hp, hq, phase, sleep, rfl⟩ | ⟨hp, rfl⟩ := sequencer_writes hu
  · simp [hp]
  · simp [hp]
  · simp [hp]
  · simp [hp, hq]
  · simp [hp, hq]
  · simp [hp]

/-- R44, R240: the sequencer changes `FAULT_CAUSE` only in a TXWAIT cycle whose response is a failure. -/
theorem sequencer_faultCause {p : Params} {i : PortIn} {s t : State} (h : sequencer p i s = .next t) :
    t.faultCause = s.faultCause ∨
    (s.phase = .txWait ∧ i.txRespValid = true ∧ i.txRespFail = true ∧ t.faultCause = .txFail) := by
  obtain ⟨-, rfl⟩ | ⟨-, _, _, rfl⟩ | ⟨hp, -⟩ | ⟨-, -, _, _, _, _, rfl⟩ | ⟨-, -, _, _, rfl⟩ | ⟨-, rfl⟩ :=
    sequencer_writes h
  case inr.inr.inl =>
    rw [sequencer_txWait hp, phaseTxWait_next_iff] at h
    obtain ⟨hv, hf, rfl⟩ | ⟨-, -, rfl⟩ | ⟨-, rfl⟩ := h
    · exact .inr ⟨hp, hv, hf, rfl⟩
    · exact .inl rfl
    · exact .inl rfl
  all_goals exact .inl rfl

/-- Settles O53: a reset cycle writes cause 0; otherwise the sequencer's one write of `FAULT_CAUSE` is in the cycle that
accepts the failure response. -/
theorem faultCauseWrittenOnlyByTxFail : Obligations.FaultCauseWrittenOnlyByTxFail := by
  intro p s t h hne
  obtain ⟨hrst, rfl⟩ | ⟨hrst, u, hu, rfl⟩ := clockStep_cases h
  · exact .inl ⟨hrst, rfl⟩
  · obtain hkeep | ⟨hp, hv, hf, hcause⟩ := sequencer_faultCause hu
    · exact absurd (by simpa using hkeep) hne
    · exact .inr ⟨(takenResponse?_eq_some_iff p s true).mpr ⟨hp, hrst, hv, hf⟩, by simp [hcause, FaultCause.code]⟩

/-! ### `CMD_REJECTED` -/

/-- R173: the port discards an accepted Blinky word of period 0. -/
theorem portStep_of_illegal {p : Params} {i : PortIn} {start : State} {w : Nat} (ha : accepted? p i start = some w)
    (hop : cmdOp p w = true) (hperiod : cmdPeriod p w = 0) (s : State) :
    portStep p i start s = rejectCommand s := by
  simp [portStep, ha, acceptCommand, decode_illegal (accepted?_lt ha) hop hperiod]

/-- R45, R173: the bit after the port's part of a cycle. -/
theorem portStep_cmdRejected (p : Params) (i : PortIn) (start s : State) :
    (portStep p i start s).cmdRejected = true ↔
      s.cmdRejected = true ∨ ∃ w, accepted? p i start = some w ∧ cmdOp p w = true ∧ cmdPeriod p w = 0 := by
  obtain ⟨ha, h⟩ | ⟨w, cmd, ha, hd, h⟩ | ⟨w, e, ha, hd, h⟩ := portStep_cases p i start s
  · simp [h, ha]
  · have hlegal := ((exists_decode_iff p w).mp ⟨cmd, hd⟩).2
    simpa [h, ha] using fun hop hperiod => absurd hperiod (hlegal hop)
  · obtain ⟨hop, hperiod, -⟩ := (decode_error_iff (accepted?_lt ha) e).mp hd
    simp [h, ha, hop, hperiod]

/-- Settles O8: reset clears the bit, the sequencer keeps it, and the port sets it for an illegal word, which leaves the
queue as the sequencer leaves it. -/
theorem cmdRejectedIsSticky : Obligations.CmdRejectedIsSticky := by
  intro p s t h
  refine ⟨?_, ?_, rfl⟩
  · obtain ⟨hrst, rfl⟩ | ⟨hrst, u, hu, rfl⟩ := clockStep_cases h
    · simp [hrst]
    · obtain ⟨hkeep, -, -⟩ := sequencer_keeps hu
      simp [NoReset, hrst, portStep_cmdRejected, hkeep]
  · intro w ha hop hperiod
    obtain ⟨-, hrst, -, -⟩ := accepted?_some ha
    obtain ⟨u, hu, rfl⟩ := (clockStep_next_iff p hrst t).mp h
    rw [nextCycle_q, portStep_of_illegal ha hop hperiod, rejectCommand_q, sequencer_q hu]

end Sys2Proof.Machine
end

section
/-! The invariants of the block (spec/10_state.md rules R34, R35, R37, R39, R43 and R48 to R51): they hold at reset,
each phase keeps them, and so does the command port. -/

namespace Sys2Proof.Machine

open Sys2Proof.Config

/-- No register of the invariants is one the host's next cycle writes. -/
theorem blockInv_nextCycle (p : Params) (s : State) : BlockInv p (nextCycle s) ↔ BlockInv p s := Iff.rfl

/-- Settles O4: under the reset Steady every duration is 0, the queue is empty and no fault is recorded. -/
theorem invariantsAtReset : Obligations.InvariantsAtReset := by
  intro p
  have hpos := Nat.two_pow_pos p.durW
  exact ⟨nofun, fun _ => ⟨rfl, rfl⟩, ⟨hpos, hpos, hpos⟩, ⟨Nat.zero_le 2, rfl⟩, Nat.zero_le 24, by decide⟩

/-- A reset cycle differs from the reset state in the host's moves only. -/
theorem blockInv_resetBlock (p : Params) (s : State) : BlockInv p (resetBlock s) := invariantsAtReset p

/-! ### What a tick stores -/

/-- R149: both sleeps are `DUR_W` bits wide (R10). -/
theorem tick_nextSleep_lt {p : Params} (hp : p.Valid) (s : State) : (tick p s).nextSleep < 2 ^ p.durW := by
  have hpos := Nat.two_pow_pos p.durW
  obtain ⟨-, -, -, -, -, -, -, -, hrefresh, -, hsteady, -⟩ := hp
  cases hop : s.curOp with
  | steady =>
    rw [tick_steady p hop]
    exact (Nat.le_sub_one_iff_lt hpos).mp hsteady
  | blinky =>
    rw [tick_blinky p hop]
    exact (Nat.le_sub_one_iff_lt hpos).mp hrefresh

/-- R149: a Blinky tick leaves `ELAPSED` at or below the period, by the flip or by the advance's minimum. -/
theorem tick_elapsed_le_period (p : Params) {s : State} (h : s.curOp = .blinky) :
    (tick p s).elapsed ≤ s.curPeriod := by
  rw [tick_blinky p h, tickBlinky]
  dsimp only
  split
  · exact Nat.zero_le _
  · exact advance_le_period _ _ _

/-- R37: whatever the command, a tick's `ELAPSED` fits the register. -/
theorem tick_elapsed_lt {p : Params} {s : State} (h : WidthInv p s) : (tick p s).elapsed < 2 ^ p.durW := by
  obtain ⟨hperiod, helapsed, -⟩ := h
  cases hop : s.curOp with
  | steady => rwa [tick_steady p hop]
  | blinky => exact (tick_elapsed_le_period p hop).trans_lt hperiod

/-! ### What each phase writes -/

theorem wellFormed_blinky_iff (p : Params) (c0 c1 : Color) (period : Nat) :
    (Instr.blinky c0 c1 period).wellFormed p = true ↔ period ≠ 0 ∧ period < 2 ^ p.durW := by
  simp [Instr.wellFormed]

section
variable {p : Params} {i : PortIn} {s t : State} (hs : BlockInv p s)
include hs

/-- R51, for a move from one running phase to another. -/
theorem blockInv_setPhase (hrun : s.phase ≠ .halt) {phase : Phase} (h : phase ≠ .halt) :
    BlockInv p { s with phase := phase } := by
  obtain ⟨ha, hst, hw, hq, hc, hh⟩ := hs
  exact ⟨ha, hst, hw, hq, hc, iff_of_false h (hh.not.mp hrun)⟩

theorem blockInv_setCodeIdx {codeIdx : BitVec 5} (h : codeIdx.toNat ≤ 24) :
    BlockInv p { s with codeIdx := codeIdx } := by
  obtain ⟨ha, hst, hw, hq, -, hh⟩ := hs
  exact ⟨ha, hst, hw, hq, h, hh⟩

theorem blockInv_setSleepRem {sleepRem : Nat} (h : sleepRem < 2 ^ p.durW) :
    BlockInv p { s with sleepRem := sleepRem } := by
  obtain ⟨ha, hst, ⟨hperiod, helapsed, -⟩, hq, hc, hh⟩ := hs
  exact ⟨ha, hst, ⟨hperiod, helapsed, h⟩, hq, hc, hh⟩

theorem blockInv_setQ {q : List Nat} (h : q.Sublist s.q) : BlockInv p { s with q := q } := by
  obtain ⟨ha, hst, hw, ⟨hlen, hall⟩, hc, hh⟩ := hs
  rw [List.all_eq_true] at hall
  have hall' : q.all (mayQueue p) = true := List.all_eq_true.mpr fun w hmem => hall w (h.subset hmem)
  exact ⟨ha, hst, hw, ⟨h.length_le.trans hlen, hall'⟩, hc, hh⟩

theorem blockInv_raiseFault : BlockInv p (raiseFault .txFail s) := by
  obtain ⟨ha, hst, hw, hq, hc, -⟩ := hs
  exact ⟨ha, hst, hw, hq, hc, iff_of_true rfl (nofun : FaultCause.txFail ≠ .none)⟩

theorem blockInv_storeTick (hp : p.Valid) : BlockInv p (storeTick (tick p s) s) := by
  obtain ⟨ha, hst, hw, hq, hc, hh⟩ := hs
  have ⟨hperiod, _, _⟩ := hw
  exact ⟨fun hop => ⟨(ha hop).1, tick_elapsed_le_period p hop⟩, hst,
    ⟨hperiod, tick_elapsed_lt hw, tick_nextSleep_lt hp s⟩, hq, hc, hh⟩

/-- R34, R35, R48: what a decoded command writes. -/
theorem blockInv_exec (hrun : s.phase ≠ .halt) {w : Nat} {cmd : Instr} (hd : decode p w = .ok cmd)
    (h : exec cmd s = .next t) : BlockInv p t := by
  obtain ⟨-, -, ⟨-, -, hsleep⟩, hq, hc, hh⟩ := hs
  have hpos := Nat.two_pow_pos p.durW
  have hrunning : Phase.tick = .halt ↔ s.faultCause ≠ .none := iff_of_false nofun (hh.not.mp hrun)
  obtain ⟨c, rfl, rfl⟩ | ⟨c0, c1, period, rfl, hne, rfl⟩ := (exec_next_iff cmd s t).mp h
  · exact ⟨nofun, fun _ => ⟨rfl, rfl⟩, ⟨hpos, hpos, hsleep⟩, hq, hc, hrunning⟩
  · obtain ⟨-, hperiod⟩ := (wellFormed_blinky_iff p c0 c1 period).mp (decode_wellFormed hd)
    exact ⟨fun _ => ⟨Nat.pos_of_ne_zero hne, Nat.zero_le _⟩, nofun, ⟨hperiod, hpos, hsleep⟩, hq, hc, hrunning⟩

/-- The sequencer's part of a cycle keeps the invariants, phase by phase. -/
theorem blockInv_sequencer (hp : p.Valid) (h : sequencer p i s = .next t) : BlockInv p t := by
  cases hphase : s.phase with
  | tick =>
    rw [sequencer_tick hphase, phaseTick_next_iff] at h
    obtain ⟨-, rfl⟩ := h
    have hzero : (0#5).toNat ≤ 24 := Nat.zero_le 24
    exact blockInv_setPhase (blockInv_setCodeIdx (blockInv_storeTick hs hp) hzero) (by simp [hphase]) nofun
  | tx =>
    have hrun : s.phase ≠ .halt := by simp [hphase]
    rw [sequencer_tx hphase, phaseTx_next_iff] at h
    obtain ⟨-, -, rfl⟩ | ⟨-, hlt, rfl⟩ | ⟨-, rfl⟩ := h
    · exact blockInv_setPhase hs hrun nofun
    · exact blockInv_setCodeIdx hs (by rw [codeIdx_succ_toNat hlt]; exact hlt)
    · exact hs
  | txWait =>
    have hrun : s.phase ≠ .halt := by simp [hphase]
    rw [sequencer_txWait hphase, phaseTxWait_next_iff] at h
    obtain ⟨-, -, rfl⟩ | ⟨-, -, rfl⟩ | ⟨-, rfl⟩ := h
    · exact blockInv_raiseFault hs
    · exact blockInv_setPhase hs hrun nofun
    · exact hs
  | race =>
    have hrun : s.phase ≠ .halt := by simp [hphase]
    rw [sequencer_race hphase, phaseRace_next_iff] at h
    obtain ⟨w, rest, cmd, hq, hd, hexec⟩ | ⟨-, -, rfl⟩ | ⟨-, -, -, rfl⟩ | ⟨-, -, -, rfl⟩ := h
    · have hrest : rest.Sublist s.q := hq ▸ List.sublist_cons_self w rest
      exact blockInv_exec (blockInv_setQ hs hrest) hrun hd hexec
    · exact blockInv_setPhase hs hrun nofun
    · have ⟨_, _, ⟨_, _, hsleep⟩, _⟩ := hs
      exact blockInv_setSleepRem hs ((Nat.sub_le _ _).trans_lt hsleep)
    · exact hs
  | halt =>
    rw [sequencer_halt hphase] at h
    cases h
    exact hs

/-- The port's part of a cycle keeps the invariants: a word it pushes decodes (R49), and it accepted that word while the
queue the cycle started with, no shorter than the one the sequencer leaves, had room (R43). -/
theorem blockInv_portStep {start : State} (hlen : s.q.length ≤ start.q.length) :
    BlockInv p (portStep p i start s) := by
  have ⟨ha, hst, hw, ⟨hq2, hqall⟩, hc, hh⟩ := hs
  obtain ⟨-, h⟩ | ⟨w, cmd, haccept, hd, h⟩ | ⟨w, e, -, -, h⟩ := portStep_cases p i start s
  · rwa [h]
  · obtain ⟨-, -, hroom, -⟩ := accepted?_some haccept
    have hmay : mayQueue p w = true := (mayQueue_iff p w).mpr ⟨cmd, hd⟩
    rw [h]
    refine ⟨ha, hst, hw, ⟨?_, ?_⟩, hc, hh⟩
    · simp only [pushCommand_q, List.length_append, List.length_singleton]
      omega
    · simp [hqall, hmay]
  · rw [h]
    exact ⟨ha, hst, hw, ⟨hq2, hqall⟩, hc, hh⟩

end

/-- R175: the sequencer only ever shortens the queue. -/
theorem sequencer_q_length_le {p : Params} {i : PortIn} {s t : State} (h : sequencer p i s = .next t) :
    t.q.length ≤ s.q.length := by
  rw [sequencer_q h]
  split
  · exact s.q.tail_sublist.length_le
  · exact le_rfl

/-- Every clock cycle keeps the invariants. -/
theorem blockInv_clockStep {p : Params} {s t : State} (hp : p.Valid) (hs : BlockInv p s)
    (h : clockStep p s = .next t) : BlockInv p t := by
  obtain ⟨-, rfl⟩ | ⟨-, u, hu, rfl⟩ := clockStep_cases h
  · exact blockInv_resetBlock p s
  · exact (blockInv_nextCycle p _).mpr (blockInv_portStep (blockInv_sequencer hs hp hu) (sequencer_q_length_le hu))

/-- Settles O5: the generic step keeps the invariants, and this hardware's parameters are among those of R10. -/
theorem stepKeepsInvariants : Obligations.StepKeepsInvariants :=
  ⟨fun _ _ _ hp hs h => blockInv_clockStep hp hs h, fun _ _ hs h => blockInv_clockStep thisHardware_valid hs h⟩

end Sys2Proof.Machine
end

section
/-! The command queue over a run (spec/20_memory.md rule R76(a), spec/42_command_channel.md rules R170, R175, R181): a
conservation law of one cycle, summed over the cycles. -/

namespace Sys2Proof.Machine

open Sys2Proof.Config

/-- R175, R207: outside reset the word a cycle applies is what its sequencer's part takes off the head of the queue. -/
theorem appliedWord?_append_sequencer_q {p : Params} {s u : State} (hrst : NoReset s)
    (h : sequencer p (currentIn s) s = .next u) : (appliedWord? s).toList ++ u.q = s.q := by
  rw [sequencer_q h, appliedWord?, hrst]
  by_cases hp : s.phase = .race
  · cases hq : s.q <;> simp [hp]
  · simp [hp]

/-- One cycle neither loses nor reorders a word: what was queued and what it queues is what it applies and what it
leaves. -/
theorem queue_conserved {p : Params} {s t : State} (hrst : NoReset s) (h : clockStep p s = .next t) :
    s.q ++ (queuedWord? p s).toList = (appliedWord? s).toList ++ t.q := by
  obtain ⟨u, hu, rfl⟩ := (clockStep_next_iff p hrst t).mp h
  rw [nextCycle_q, portStep_q, ← List.append_assoc, appliedWord?_append_sequencer_q hrst hu]

/-- Settles O37, by induction on the number of cycles: each cycle conserves the queue's words. -/
theorem commandsAreFifo : Obligations.CommandsAreFifo := by
  intro p n
  induction n with
  | zero =>
    intro s t h _
    cases h
    simp [wordsQueued, wordsApplied]
  | succ n ih =>
    intro s t h hrun
    obtain ⟨u, hu, h⟩ := stateAfter_succ_some h
    obtain ⟨hrst, hrun⟩ := (throughout_succ hu).mp hrun
    calc s.q ++ wordsQueued p (n + 1) s
        = s.q ++ (queuedWord? p s).toList ++ wordsQueued p n u := by
          rw [wordsQueued, gather_succ _ hu, List.append_assoc, wordsQueued]
      _ = (appliedWord? s).toList ++ (u.q ++ wordsQueued p n u) := by
          rw [queue_conserved hrst hu, List.append_assoc]
      _ = (appliedWord? s).toList ++ (wordsApplied p n u ++ t.q) := by rw [ih u t h hrun]
      _ = wordsApplied p (n + 1) s ++ t.q := by
          rw [wordsApplied, wordsApplied, gather_succ _ hu, List.append_assoc]

end Sys2Proof.Machine
end

section
/-! Commands and a frame in flight (spec/20_memory.md rule R76, spec/43_driver_loop.md rule R212): outside RACE a cycle
is, off the command side, the cycle of a block that has an empty queue and is offered nothing. Two runs that differ on
the command side only are therefore compared through that one block. -/

namespace Sys2Proof.Machine

open Sys2Proof.Config

/-- The registers off the command side: the queue and `CMD_REJECTED` are blanked, and the coming cycles have the given
inputs. -/
def offCommands (inputs : List PortIn) (s : State) : State :=
  { s with q := [], cmdRejected := false, inputs := inputs }

/-- The other input ports are as they are, and no word is offered. -/
def noOffer (i : PortIn) : PortIn := { i with cmdValid := false, cmdData := 0 }

/-- The same block in a cycle that no command reaches: no word waits and none is offered. -/
def withoutCommands (s : State) : State := offCommands [noOffer (currentIn s)] s

/-- What it is for two states to agree on everything but the command side. -/
theorem offCommands_eq_iff (s s' : State) :
    offCommands [] s' = offCommands [] s ↔
      { s' with q := s.q, cmdRejected := s.cmdRejected, inputs := s.inputs } = s := by
  constructor
  · intro h
    exact congrArg (fun u : State => { u with q := s.q, cmdRejected := s.cmdRejected, inputs := s.inputs }) h
  · intro h
    exact (congrArg (offCommands []) h :)

/-- The command port's part of a cycle writes the command side only. -/
theorem offCommands_portStep (inputs : List PortIn) (p : Params) (i : PortIn) (start s : State) :
    offCommands inputs (portStep p i start s) = offCommands inputs s := by
  obtain ⟨-, h⟩ | ⟨w, cmd, -, -, h⟩ | ⟨w, e, -, -, h⟩ := portStep_cases p i start s <;> rw [h] <;> rfl

/-- With no offer the command port does nothing. -/
theorem portStep_of_not_valid {p : Params} {i : PortIn} (h : i.cmdValid = false) (start s : State) :
    portStep p i start s = s := by
  simp [portStep, accepted?, h]

/-- R174, R212: outside RACE the sequencer neither reads nor writes the command side. -/
theorem sequencer_offCommands {p : Params} {i : PortIn} {s u : State} (hp : s.phase ≠ .race)
    (h : sequencer p i s = .next u) (inputs : List PortIn) :
    sequencer p (noOffer i) (offCommands inputs s) = .next (offCommands inputs u) := by
  cases hphase : s.phase with
  | tick =>
    rw [sequencer_tick hphase, phaseTick_next_iff] at h
    obtain ⟨hdef, rfl⟩ := h
    rw [sequencer_tick (s := offCommands inputs s) hphase, phaseTick_next_iff]
    exact ⟨hdef, rfl⟩
  | tx =>
    rw [sequencer_tx hphase, phaseTx_next_iff] at h
    rw [sequencer_tx (s := offCommands inputs s) hphase, phaseTx_next_iff]
    obtain ⟨hready, hlast, rfl⟩ | ⟨hready, hlt, rfl⟩ | ⟨hready, rfl⟩ := h
    · exact .inl ⟨hready, hlast, rfl⟩
    · exact .inr (.inl ⟨hready, hlt, rfl⟩)
    · exact .inr (.inr ⟨hready, rfl⟩)
  | txWait =>
    rw [sequencer_txWait hphase, phaseTxWait_next_iff] at h
    rw [sequencer_txWait (s := offCommands inputs s) hphase, phaseTxWait_next_iff]
    obtain ⟨hvalid, hfail, rfl⟩ | ⟨hvalid, hfail, rfl⟩ | ⟨hvalid, rfl⟩ := h
    · exact .inl ⟨hvalid, hfail, rfl⟩
    · exact .inr (.inl ⟨hvalid, hfail, rfl⟩)
    · exact .inr (.inr ⟨hvalid, rfl⟩)
  | race => exact absurd hphase hp
  | halt =>
    rw [sequencer_halt hphase] at h
    cases h
    exact sequencer_halt (s := offCommands inputs s) hphase

/-- Outside RACE, a cycle with the command side taken away gives what the cycle itself gives off the command side. -/
theorem clockStep_withoutCommands {p : Params} {s t : State} (hp : s.phase ≠ .race) (h : clockStep p s = .next t) :
    clockStep p (withoutCommands s) = .next (offCommands [] t) := by
  obtain ⟨hrst, rfl⟩ | ⟨hrst, u, hu, rfl⟩ := clockStep_cases h
  · exact clockStep_of_rst p (s := withoutCommands s) hrst
  · have hquiet := sequencer_offCommands hp hu [noOffer (currentIn s)]
    refine (clockStep_next_iff p (s := withoutCommands s) hrst _).mpr ⟨_, hquiet, ?_⟩
    rw [portStep_of_not_valid (i := currentIn (withoutCommands s)) rfl]
    exact congrArg nextCycle (offCommands_portStep [] p (currentIn s) s u)

/-- The code the sink takes does not depend on the command side (R203). -/
theorem takenCode?_withoutCommands (p : Params) (s : State) : takenCode? p (withoutCommands s) = takenCode? p s := rfl

/-- Two cycles that agree off the command side, input ports included, are one cycle without commands. -/
theorem withoutCommands_congr {s s' : State} (hs : offCommands [] s' = offCommands [] s)
    (hin : { currentIn s' with cmdValid := (currentIn s).cmdValid, cmdData := (currentIn s).cmdData } = currentIn s) :
    withoutCommands s' = withoutCommands s := by
  have hports : noOffer (currentIn s') = noOffer (currentIn s) := (congrArg noOffer hin :)
  rw [withoutCommands, hports]
  exact (congrArg (offCommands [noOffer (currentIn s)]) hs :)

/-- Settles O48, by induction on the number of cycles: both runs make the cycle without commands, take its code, and
agree off the command side again. -/
theorem commandsNeverTouchTheFrame : Obligations.CommandsNeverTouchTheFrame := by
  intro p n
  induction n with
  | zero =>
    intro s s' t t' hs h h' _ _
    cases h
    cases h'
    exact ⟨rfl, hs⟩
  | succ n ih =>
    intro s s' t t' hs h h' hrun hin
    obtain ⟨u, hu, h⟩ := stateAfter_succ_some h
    obtain ⟨u', hu', h'⟩ := stateAfter_succ_some h'
    obtain ⟨hrace, hrun⟩ := (throughout_succ hu).mp hrun
    have hoff := (offCommands_eq_iff s s').mpr hs
    have hsame := withoutCommands_congr hoff (hin 0 n.succ_pos s s' rfl rfl)
    have hrace' : s'.phase ≠ .race := congrArg State.phase hoff ▸ hrace
    have hnext : offCommands [] u' = offCommands [] u := by
      have hstep' := clockStep_withoutCommands hrace' hu'
      rw [hsame, clockStep_withoutCommands hrace hu] at hstep'
      exact (Host.Outcome.next.inj hstep').symm
    have hcode : takenCode? p s = takenCode? p s' := by
      rw [← takenCode?_withoutCommands p s, ← takenCode?_withoutCommands p s', hsame]
    obtain ⟨hcodes, hend⟩ := ih u u' t t' ((offCommands_eq_iff u u').mp hnext) h h' hrun fun k hk v v' hv hv' =>
      hin (k + 1) (Nat.succ_lt_succ hk) v v' ((stateAfter_succ hu k).trans hv) ((stateAfter_succ hu' k).trans hv')
    refine ⟨?_, hend⟩
    rw [codesTaken, codesTaken, gather_succ _ hu, gather_succ _ hu', hcode]
    exact congrArg _ hcodes

end Sys2Proof.Machine
end

section
/-! Colours and pulse words as numbers (spec/30_encoding.md rules R92, R100 and R101). -/

namespace Sys2Proof.Machine

open Sys2Proof.Config

/-- A concatenation of bit vectors as arithmetic on their numbers (R15). -/
theorem toNat_append_eq_add {m n : Nat} (x : BitVec m) (y : BitVec n) :
    (x ++ y).toNat = x.toNat * 2 ^ n + y.toNat := by
  rw [BitVec.toNat_append, ← Nat.shiftLeft_add_eq_or_of_lt y.isLt, Nat.shiftLeft_eq]

/-! ### Colours -/

theorem red_toNat (c : Color) : (red c).toNat = c.toNat / 2 ^ 16 := by
  have hc := c.isLt
  rw [red, BitVec.extractLsb'_toNat, Nat.shiftRight_eq_div_pow]
  omega

theorem green_toNat (c : Color) : (green c).toNat = c.toNat / 2 ^ 8 % 2 ^ 8 := by
  rw [green, BitVec.extractLsb'_toNat, Nat.shiftRight_eq_div_pow]

theorem blue_toNat (c : Color) : (blue c).toNat = c.toNat % 2 ^ 8 := by
  rw [blue, BitVec.extractLsb'_toNat, Nat.shiftRight_zero]

theorem mkColor_toNat (r g b : Byte) :
    (mkColor r g b).toNat = r.toNat * 2 ^ 16 + g.toNat * 2 ^ 8 + b.toNat := by
  rw [mkColor, toNat_append_eq_add, toNat_append_eq_add]
  omega

/-- Settles O12: each channel by its own lemma, and the colour from its channels. -/
theorem colorLanes : Obligations.ColorLanes := fun c => ⟨red_toNat c, green_toNat c, blue_toNat c, mkColor_toNat⟩

/-! ### Pulse words -/

/-- R100: the layout of a word whose lengths fit their fields. -/
theorem pulseWord_toNat {c : PulseCode} (h1 : c.length1 < 2 ^ lenW) (h2 : c.length2 < 2 ^ lenW) :
    (pulseWord c).toNat =
      c.level2.toNat * 2 ^ 31 + c.length2 * 2 ^ 16 + c.level1.toNat * 2 ^ 15 + c.length1 := by
  simp only [pulseWord, toNat_append_eq_add, BitVec.toNat_ofBool, BitVec.toNat_ofNat, Nat.mod_eq_of_lt h1,
    Nat.mod_eq_of_lt h2, lenW]
  omega

/-- Settles O16. -/
theorem pulseWordLayout : Obligations.PulseWordLayout := fun _ h1 h2 => pulseWord_toNat h1 h2

/-- The codes whose lengths fit their fields are told apart by their words: each field is read off the number. -/
theorem pulseWord_injective {c c' : PulseCode} (h1 : c.length1 < 2 ^ lenW) (h2 : c.length2 < 2 ^ lenW)
    (h1' : c'.length1 < 2 ^ lenW) (h2' : c'.length2 < 2 ^ lenW) (h : pulseWord c = pulseWord c') : c = c' := by
  have hnum := congrArg BitVec.toNat h
  rw [pulseWord_toNat h1 h2, pulseWord_toNat h1' h2'] at hnum
  obtain ⟨level1, length1, level2, length2⟩ := c
  obtain ⟨level1', length1', level2', length2'⟩ := c'
  have hlevel1 := Bool.toNat_lt level1
  have hlevel1' := Bool.toNat_lt level1'
  have hinj := Function.LeftInverse.injective Bool.ofNat_toNat
  simp only [lenW] at *
  simp only [PulseCode.mk.injEq, ← hinj.eq_iff]
  omega

/-- R101, R127: the code at any index is one of the three. -/
theorem frameCode_cases (p : Params) (c : Color) (i : BitVec 5) :
    frameCode p c i = oneCode p ∨ frameCode p c i = zeroCode p ∨ frameCode p c i = resetCode p := by
  have hbit (x : Bool) :
      encodeBit p x = oneCode p ∨ encodeBit p x = zeroCode p ∨ encodeBit p x = resetCode p := by
    cases x
    · exact .inr (.inl rfl)
    · exact .inl rfl
  unfold frameCode
  split_ifs
  · exact hbit _
  · exact hbit _
  · exact hbit _
  · exact .inr (.inr rfl)

theorem oneCode_ne_resetCode (p : Params) : oneCode p ≠ resetCode p := by
  simp [oneCode, resetCode]

theorem zeroCode_ne_resetCode (p : Params) : zeroCode p ≠ resetCode p := by
  simp [zeroCode, resetCode]

section
variable {p : Params} (hp : p.Valid)
include hp

/-- R10: the three pulse lengths fit their fields. -/
theorem pulseLengths_lt : p.shortCycles < 2 ^ lenW ∧ p.longCycles < 2 ^ lenW ∧ p.resetCycles < 2 ^ lenW := by
  obtain ⟨-, -, hshort, hlong, -, hreset, -⟩ := hp
  omega

theorem oneCode_ne_zeroCode : oneCode p ≠ zeroCode p := by
  obtain ⟨-, -, hshort, -⟩ := hp
  simp [oneCode, zeroCode, hshort.ne']

/-- R101: the three words are distinct, as the codes are. -/
theorem pulseWords_distinct :
    pulseWord (oneCode p) ≠ pulseWord (zeroCode p) ∧ pulseWord (oneCode p) ≠ pulseWord (resetCode p) ∧
      pulseWord (zeroCode p) ≠ pulseWord (resetCode p) := by
  obtain ⟨hshort, hlong, hreset⟩ := pulseLengths_lt hp
  have hzero : 0 < 2 ^ lenW := Nat.two_pow_pos lenW
  exact ⟨fun h => oneCode_ne_zeroCode hp (pulseWord_injective hlong hshort hshort hlong h),
    fun h => oneCode_ne_resetCode p (pulseWord_injective hlong hshort hreset hzero h),
    fun h => zeroCode_ne_resetCode p (pulseWord_injective hshort hlong hreset hzero h)⟩

end

/-- Settles O17: the code offered is one of three, whose words differ; their layout is the definition's, and their
default values are computed. -/
theorem onlyThreeCodeWords : Obligations.OnlyThreeCodeWords := by
  refine ⟨fun p hp => ⟨fun c i => ?_, ?_⟩, by decide, by decide, by decide⟩
  · obtain h | h | h := frameCode_cases p c i
    · exact .inl (congrArg pulseWord h)
    · exact .inr (.inl (congrArg pulseWord h))
    · exact .inr (.inr (congrArg pulseWord h))
  · obtain ⟨honeZero, honeReset, hzeroReset⟩ := pulseWords_distinct hp
    exact ⟨honeZero, honeReset, hzeroReset, rfl, rfl, rfl⟩

end Sys2Proof.Machine
end

section
/-! Decoding and encoding (spec/30_encoding.md rules R91 to R97, R105, R107 and R109). -/

namespace Sys2Proof

open Sys2Proof.Config Sys2Proof.Machine

/-! ### From a command to its word and back -/

/-- R91, R93, R107: each field of the encoder's word is the operand it was given. -/
theorem decode_encode {p : Params} {i : Instr} (h : i.wellFormed p = true) : decode p (encode p i) = .ok i := by
  cases i with
  | steady c =>
    have hpos : 0 < 2 ^ p.durW := Nat.two_pow_pos p.durW
    rw [encode, decode_steady (packCmd_lt false c 0#24 hpos) (cmdOp_packCmd false c 0#24 hpos),
      cmdC0_packCmd false c 0#24 hpos]
  | blinky c0 c1 period =>
    obtain ⟨hne, hlt⟩ := (wellFormed_blinky_iff p c0 c1 period).mp h
    have hperiod := cmdPeriod_packCmd true c0 c1 hlt
    rw [encode, decode_blinky (packCmd_lt true c0 c1 hlt) (cmdOp_packCmd true c0 c1 hlt) (by rwa [hperiod]),
      cmdC0_packCmd true c0 c1 hlt, cmdC1_packCmd true c0 c1 hlt, hperiod]

/-- What decodes is a word of the port. -/
theorem decode_ok_lt {p : Params} {w : Nat} {i : Instr} (h : decode p w = .ok i) : w < 2 ^ p.cmdW :=
  ((decode_ok_iff p w i).mp h).1

/-- At the default `DUR_W` the table's 11 bytes hold every word of the port. -/
theorem decodeTableWord_of_decode {w : Nat} {i : Instr} (h : decode thisHardware w = .ok i) :
    decodeTableWord 88 w = some i := by
  have hw : w < 2 ^ 88 := (decode_ok_lt h).trans (by decide)
  rw [decodeTableWord, Nat.mod_eq_of_lt hw, h, Except.toOption]

/-- Settles O9: the round trip at every `DUR_W`, and through the table's numbering at the default one. -/
theorem decodeEncodeRoundTrip : Obligations.DecodeEncodeRoundTrip :=
  ⟨fun _ _ h => decode_encode h, fun _ h => decodeTableWord_of_decode (decode_encode h)⟩

/-! ### From a word to its command and back -/

/-- R91: `OP` is the topmost bit of the word. -/
theorem cmdOp_eq_true_iff {p : Params} {w : Nat} (hw : w < 2 ^ p.cmdW) :
    cmdOp p w = true ↔ 2 ^ (p.durW + 48) ≤ w := by
  have htop : w / 2 ^ (p.durW + 48) < 2 := by
    rw [Nat.div_lt_iff_lt_mul (Nat.two_pow_pos _), ← Nat.pow_succ']
    exact hw
  rw [cmdOp, bits, ← Nat.one_le_div_iff (Nat.two_pow_pos _), beq_iff_eq]
  generalize w / 2 ^ (p.durW + 48) = top at htop ⊢
  omega

/-- R95: the encoder's word of the colour a STEADY word holds, as arithmetic on that word. -/
theorem encode_steady_cmdC0 {p : Params} {w : Nat} (hw : w < 2 ^ (p.durW + 48)) :
    encode p (.steady (cmdC0 p w)) = w / 2 ^ (p.durW + 24) * 2 ^ (p.durW + 24) := by
  have hfield : w / 2 ^ (p.durW + 24) < 2 ^ 24 := by
    rw [Nat.div_lt_iff_lt_mul (Nat.two_pow_pos _), ← Nat.pow_add, Nat.add_comm]
    exact hw
  have hc0 : (cmdC0 p w).toNat = w / 2 ^ (p.durW + 24) := by
    rw [cmdC0, BitVec.toNat_ofNat, bits, Nat.mod_mod, Nat.mod_eq_of_lt hfield]
  simp only [encode, packCmd, hc0, Bool.toNat_false, BitVec.toNat_zero, Nat.zero_mul, Nat.zero_add, Nat.add_zero]
  rw [Nat.mul_assoc, ← Nat.pow_add, Nat.add_comm 24]

/-- Settles O10: a BLINKY word is the four fields its command keeps, a STEADY word's command keeps `C0` only. -/
theorem encodeOfDecodedWord : Obligations.EncodeOfDecodedWord := by
  intro p w i h
  obtain ⟨hw, ⟨hop, rfl⟩ | ⟨hop, -, rfl⟩⟩ := (decode_ok_iff p w i).mp h
  · have hlow : ¬ 2 ^ (p.durW + 48) ≤ w := by simp [← cmdOp_eq_true_iff hw, hop]
    rw [if_neg hlow, encode_steady_cmdC0 (Nat.not_le.mp hlow)]
  · rw [if_pos ((cmdOp_eq_true_iff hw).mp hop), encode]
    simpa only [hop] using packCmd_fields hw

/-! ### The decoder as arithmetic -/

/-- R92: a 24-bit field is the colour of its three eight-bit fields. -/
theorem colorField_eq_mkColor (v lo : Nat) :
    BitVec.ofNat 24 (bits v lo 24) =
      mkColor (BitVec.ofNat 8 (bits v (lo + 16) 8)) (BitVec.ofNat 8 (bits v (lo + 8) 8))
        (BitVec.ofNat 8 (bits v lo 8)) := by
  apply BitVec.eq_of_toNat_eq
  rw [mkColor_toNat, bits_add, bits_add, bits_above v lo 24, bits_above v lo 8]
  generalize v / 2 ^ lo = u
  simp only [bits, BitVec.toNat_ofNat]
  omega

/-- Settles O11: the three cases of the decoder, the colours channel by channel. -/
theorem decodeReadsTheFields : Obligations.DecodeReadsTheFields := by
  intro p w hw channel c0 c1 period
  have hc0 : cmdC0 p w = c0 := colorField_eq_mkColor w (p.durW + 24)
  have hc1 : cmdC1 p w = c1 := colorField_eq_mkColor w p.durW
  have hperiod : cmdPeriod p w = period := bits_low w p.durW
  have hop : cmdOp p w = true ↔ ¬ w / 2 ^ (p.durW + 48) % 2 = 0 := by
    rw [cmdOp, bits, beq_iff_eq, Nat.pow_one, Nat.mod_two_not_eq_zero]
  rw [← hc0, ← hc1, ← hperiod]
  split_ifs with hbit hzero
  · exact decode_steady hw (by simpa [hbit] using hop)
  · exact decode_illegal hw (hop.mpr hbit) hzero
  · exact decode_blinky hw (hop.mpr hbit) hzero

/-! ### The assembler -/

/-- Settles O13: the rows of R109, computed. -/
theorem workedEncodings : Obligations.WorkedEncodings := by
  unfold Obligations.WorkedEncodings
  decide

/-- R107: the assembler's check is the well-formedness of the command it answers. -/
theorem blinkyOf?_eq_some_iff (p : Params) (c0 c1 : Color) (n : Nat) (i : Instr) :
    blinkyOf? p c0 c1 n = some i ↔ n ≠ 0 ∧ n < 2 ^ p.durW ∧ i = .blinky c0 c1 n := by
  simp [blinkyOf?, and_assoc, @eq_comm _ i]

/-- Settles O14: the check refuses what is not well formed, and the fields of a packed word are those packed. -/
theorem assemblerRefusesBadPeriods : Obligations.AssemblerRefusesBadPeriods := by
  intro p c0 c1 n
  refine ⟨by simp [blinkyOf?, or_iff_not_imp_left], fun i hi => ?_⟩
  obtain ⟨-, hlt, rfl⟩ := (blinkyOf?_eq_some_iff p c0 c1 n i).mp hi
  exact ⟨cmdOp_packCmd true c0 c1 hlt, cmdC0_packCmd true c0 c1 hlt, cmdC1_packCmd true c0 c1 hlt,
    cmdPeriod_packCmd true c0 c1 hlt⟩

/-- Settles O33: the meaning's own refusal, and what decodes is well formed. -/
theorem blinkyZeroNeverApplied : Obligations.BlinkyZeroNeverApplied := by
  refine ⟨exec_blinky_zero, fun p w c0 c1 h => ?_⟩
  obtain ⟨hne, -⟩ := (wellFormed_blinky_iff p c0 c1 0).mp (decode_wellFormed h)
  exact hne rfl

end Sys2Proof
end

section
/-! A STEADY word's ignored fields have no effect (spec/30_encoding.md rule R95). -/

namespace Sys2Proof.Machine

open Sys2Proof.Config

/-- R171: whether a word is accepted depends on the queue's length only. -/
theorem accepted?_congr {s s' : State} (h : s.q.length = s'.q.length) (p : Params) (i : PortIn) :
    accepted? p i s = accepted? p i s' := by
  simp [accepted?, cmdReady, h]

theorem portStep_congr {start start' : State} (h : start.q.length = start'.q.length) (p : Params) (i : PortIn)
    (s : State) : portStep p i start s = portStep p i start' s := by
  simp [portStep, accepted?_congr h]

/-- R207: a RACE cycle with a waiting word applies it, then the port acts, then comes the host's next cycle. -/
theorem clockStep_race_command {p : Params} {s t : State} {w : Nat} {rest : List Nat} {i : Instr}
    (hphase : s.phase = .race) (hrst : NoReset s) (hq : s.q = w :: rest) (hd : decode p w = .ok i)
    (hexec : exec i { s with q := rest } = .next t) :
    clockStep p s = .next (nextCycle (portStep p (currentIn s) s t)) := by
  refine (clockStep_next_iff p hrst _).mpr ⟨t, ?_, rfl⟩
  rw [sequencer_race hphase, phaseRace_next_iff]
  exact .inl ⟨w, rest, i, hq, hd, hexec⟩

/-- Two words that decode to one command make the same RACE cycle. -/
theorem clockStep_race_congr {p : Params} {s : State} {w w' : Nat} {cmd : Instr} (hphase : s.phase = .race)
    (hd : decode p w = .ok cmd) (hd' : decode p w' = .ok cmd) (rest : List Nat) :
    clockStep p { s with q := w :: rest } = clockStep p { s with q := w' :: rest } := by
  cases hrst : (currentIn s).rst with
  | true =>
    rw [clockStep_of_rst p (s := { s with q := w :: rest }) hrst,
      clockStep_of_rst p (s := { s with q := w' :: rest }) hrst]
    rfl
  | false =>
    obtain ⟨t, ht⟩ := exec_of_decode hd { s with q := rest }
    rw [clockStep_race_command (s := { s with q := w :: rest }) hphase hrst rfl hd ht,
      clockStep_race_command (s := { s with q := w' :: rest }) hphase hrst rfl hd' ht]
    exact congrArg (Host.Outcome.next ∘ nextCycle) (portStep_congr rfl p _ t)

/-- R55: the outputs show the queue's length only. -/
theorem outputs_congr_q (p : Params) (rst : Bool) (s : State) {q q' : List Nat} (h : q.length = q'.length) :
    outputs p rst { s with q := q } = outputs p rst { s with q := q' } := by
  simp [outputs, cmdReady, halted, offeredCode, h]

/-- Settles O15: STEADY words with one `C0` decode to one command, and the encoder packs zeros. -/
theorem steadyIgnoresItsOtherFields : Obligations.SteadyIgnoresItsOtherFields := by
  refine ⟨fun p w hw hop => decode_steady hw hop, ?_, fun p c => ?_⟩
  · intro p w w' s before rest rst hw hw' hop hop' hc0
    refine ⟨fun hphase => ?_, outputs_congr_q p rst s (by simp)⟩
    exact clockStep_race_congr hphase (decode_steady hw hop) (hc0 ▸ decode_steady hw' hop') rest
  · have hpos : 0 < 2 ^ p.durW := Nat.two_pow_pos p.durW
    exact ⟨cmdC1_packCmd false c 0#24 hpos, cmdPeriod_packCmd false c 0#24 hpos⟩

end Sys2Proof.Machine
end

section
/-! Progress (spec/30_encoding.md rule R97, spec/41_animation.md rule R149, spec/60_exceptions.md rule R241): in a state
that meets the invariants every phase has a next state. -/

namespace Sys2Proof.Machine

open Sys2Proof.Config

/-- R48: a tick is defined. -/
theorem tickDefined_of_animationInv {s : State} (h : AnimationInv s) : tickDefined s = true := by
  cases hop : s.curOp with
  | steady => exact tickDefined_steady hop
  | blinky => exact (tickDefined_blinky hop).mpr (h hop)

/-- R50: a code that the sink takes has a row in the table of R201. -/
theorem exists_phaseTx_next {s : State} (h : CodeIndexInv s) (i : PortIn) : ∃ t, phaseTx i s = .next t := by
  simp only [phaseTx_next_iff]
  cases i.pcReady with
  | false => exact ⟨_, .inr (.inr ⟨rfl, rfl⟩)⟩
  | true =>
    rcases h.eq_or_lt with hlast | hlt
    · exact ⟨_, .inl ⟨rfl, codeIdx_eq_last.mpr hlast, rfl⟩⟩
    · exact ⟨_, .inr (.inl ⟨rfl, hlt, rfl⟩)⟩

theorem exists_phaseTxWait_next (i : PortIn) (s : State) : ∃ t, phaseTxWait i s = .next t := by
  unfold phaseTxWait
  split_ifs
  all_goals exact ⟨_, rfl⟩

/-- R49: a word that is popped decodes. -/
theorem exists_phaseRace_next {p : Params} {s : State} (h : QueueInv p s) (i : PortIn) :
    ∃ t, phaseRace p i s = .next t := by
  cases hq : s.q with
  | nil =>
    simp only [phaseRace, hq]
    split_ifs
    all_goals exact ⟨_, rfl⟩
  | cons w rest =>
    obtain ⟨-, hall⟩ := h
    have hmay : mayQueue p w = true := List.all_eq_true.mp hall w (by simp [hq])
    obtain ⟨cmd, hd⟩ := (mayQueue_iff p w).mp hmay
    obtain ⟨t, ht⟩ := exec_of_decode hd { s with q := rest }
    exact ⟨t, (phaseRace_next_iff p i s t).mpr (.inl ⟨w, rest, cmd, hq, hd, ht⟩)⟩

theorem exists_sequencer_next {p : Params} {s : State} (h : BlockInv p s) (i : PortIn) :
    ∃ t, sequencer p i s = .next t := by
  obtain ⟨hanim, -, -, hqueue, hidx, -⟩ := h
  cases hphase : s.phase with
  | tick =>
    rw [sequencer_tick hphase]
    exact ⟨_, (phaseTick_next_iff p s _).mpr ⟨tickDefined_of_animationInv hanim, rfl⟩⟩
  | tx => rw [sequencer_tx hphase]; exact exists_phaseTx_next hidx i
  | txWait => rw [sequencer_txWait hphase]; exact exists_phaseTxWait_next i s
  | race => rw [sequencer_race hphase]; exact exists_phaseRace_next hqueue i
  | halt => rw [sequencer_halt hphase]; exact ⟨s, rfl⟩

/-- No cycle stops in a state that meets the invariants, whatever the parameters and the inputs. -/
theorem exists_clockStep_next {p : Params} {s : State} (h : BlockInv p s) : ∃ t, clockStep p s = .next t := by
  cases hrst : (currentIn s).rst with
  | true => exact ⟨_, clockStep_of_rst p hrst⟩
  | false =>
    obtain ⟨u, hu⟩ := exists_sequencer_next h (currentIn s)
    exact ⟨_, (clockStep_next_iff p hrst _).mpr ⟨u, hu, rfl⟩⟩

/-- Settles O55, by induction on the number of cycles: each has a next state, which keeps the invariants. -/
theorem noStepStops : Obligations.NoStepStops := by
  intro p n
  induction n with
  | zero => exact fun s _ hs => ⟨s, rfl, hs⟩
  | succ n ih =>
    intro s hp hs
    obtain ⟨u, hu⟩ := exists_clockStep_next hs
    rw [stateAfter_succ hu]
    exact ih u hp (blockInv_clockStep hp hs hu)

end Sys2Proof.Machine
end

section
/-! The pulse encoder's frames (spec/40_pulse_encoder.md rules R125 to R127, R129 and R130): element by element, read
back, and timed on the wire. -/

namespace Sys2Proof.Machine

open Sys2Proof.Config

/-! ### One data code -/

theorem encodeBit_eq_oneCode_or_zeroCode (p : Params) (x : Bool) :
    encodeBit p x = oneCode p ∨ encodeBit p x = zeroCode p := by
  cases x with
  | false => exact .inr rfl
  | true => exact .inl rfl

/-- R129: where SHORT and LONG differ, `length1` tells a 1 bit from a 0 bit. -/
theorem bit_of_encodeBit {p : Params} (h : p.shortCycles < p.longCycles) (x : Bool) :
    (if (encodeBit p x).length1 = p.longCycles then 1 else 0) = x.toNat := by
  cases x with
  | false => exact if_neg h.ne
  | true => exact if_pos rfl

/-- R130: a data code takes a LONG and a SHORT phase, whatever its bit. -/
theorem codeCycles_encodeBit (p : Params) (x : Bool) : codeCycles (encodeBit p x) = p.longCycles + p.shortCycles := by
  cases x with
  | false => exact Nat.add_comm p.shortCycles p.longCycles
  | true => rfl

/-! ### One byte -/

/-- Settles O18: an element is the code of its bit; the three bytes are computed. -/
theorem encodeByteMsbFirst : Obligations.EncodeByteMsbFirst := fun p =>
  ⟨fun b => ⟨encodeByte_length p b, fun _ hk => encodeByte_getElem? p b hk⟩, rfl, rfl, rfl⟩

/-- Bit `m` of `x`, shifted in below the bits above it, gives the bits from `m` up. -/
theorem two_mul_div_add_testBit (x m : Nat) : 2 * (x / 2 ^ (m + 1)) + (x.testBit m).toNat = x / 2 ^ m := by
  rw [Nat.toNat_testBit, Nat.pow_succ, ← Nat.div_div_eq_div_mul, Nat.div_add_mod]

/-- The first `n` bits of `b`, most significant first and each shifted in at the right, are the top `n` bits of its
number. -/
theorem foldl_msbFirst_eq_div (b : Byte) {n : Nat} (hn : n ≤ 8) :
    (List.range n).foldl (fun acc k => 2 * acc + (b.getLsbD (7 - k)).toNat) 0 = b.toNat / 2 ^ (8 - n) := by
  induction n with
  | zero => exact (Nat.div_eq_of_lt b.isLt).symm
  | succ n ih =>
    have hbefore : 8 - n = 7 - n + 1 := by omega
    have hafter : 8 - (n + 1) = 7 - n := by omega
    rw [List.range_succ, List.foldl_append, ih (by omega), hbefore, hafter]
    exact two_mul_div_add_testBit b.toNat (7 - n)

/-- R125, R129: a byte's eight codes read back as the byte. -/
theorem byteOfCodes_encodeByte {p : Params} (h : p.shortCycles < p.longCycles) (b : Byte) :
    byteOfCodes p (encodeByte p b) = b := by
  simp only [byteOfCodes, encodeByte, List.foldl_map, bit_of_encodeBit h, foldl_msbFirst_eq_div b le_rfl]
  rw [Nat.sub_self, Nat.pow_zero, Nat.div_one, BitVec.ofNat_toNat, BitVec.setWidth_eq]

theorem encodeByte_cycles (p : Params) (b : Byte) :
    ((encodeByte p b).map codeCycles).sum = 8 * (p.longCycles + p.shortCycles) := by
  simp only [encodeByte, List.map_map, Function.comp_def, codeCycles_encodeBit, List.map_const', List.length_range,
    List.sum_replicate, smul_eq_mul]

/-! ### One frame -/

section
variable (p : Params) (c : Color)

/-! R126: the eight codes of each channel, in wire order, and RESET behind them. -/

theorem encodeFrame_greenCodes : ((encodeFrame p c).drop 0).take 8 = encodeByte p (green c) := by
  simp [encodeFrame]

theorem encodeFrame_redCodes : ((encodeFrame p c).drop 8).take 8 = encodeByte p (red c) := by
  simp [encodeFrame]

theorem encodeFrame_blueCodes : ((encodeFrame p c).drop 16).take 8 = encodeByte p (blue c) := by
  simp [encodeFrame, List.take_append, List.drop_append]

theorem encodeFrame_getElem?_last : (encodeFrame p c)[24]? = some (resetCode p) := by
  simp [encodeFrame]

end

section
variable {p : Params} {c : Color}

/-- Where the codes from index `lo` on are a byte's, an index among them holds the code of the byte's bit, bit 7
first. -/
theorem encodeFrame_getElem?_of_byte {b : Byte} {lo i : Nat}
    (hbyte : ((encodeFrame p c).drop lo).take 8 = encodeByte p b) (hlo : lo ≤ i) (hhi : i < lo + 8) :
    (encodeFrame p c)[i]? = some (encodeBit p (b.getLsbD (lo + 7 - i))) := by
  obtain ⟨k, rfl⟩ := Nat.exists_eq_add_of_le hlo
  have hk : k < 8 := by omega
  rw [← List.getElem?_drop, ← List.getElem?_take_of_lt hk, hbyte, encodeByte_getElem? p b hk, Nat.add_sub_add_left]

/-- R129: the codes before RESET are data codes. -/
theorem exists_encodeFrame_getElem?_eq_encodeBit {i : Nat} (hi : i < 24) :
    ∃ x, (encodeFrame p c)[i]? = some (encodeBit p x) := by
  by_cases hgreen : i < 8
  · exact ⟨_, encodeFrame_getElem?_of_byte (encodeFrame_greenCodes p c) (Nat.zero_le i) hgreen⟩
  by_cases hred : i < 16
  · exact ⟨_, encodeFrame_getElem?_of_byte (encodeFrame_redCodes p c) (not_lt.mp hgreen) hred⟩
  · exact ⟨_, encodeFrame_getElem?_of_byte (encodeFrame_blueCodes p c) (not_lt.mp hred) hi⟩

/-- R129: each channel reads back from its own eight codes. -/
theorem colorOfFrame_encodeFrame (h : p.shortCycles < p.longCycles) : colorOfFrame p (encodeFrame p c) = c := by
  have hgreen : (encodeFrame p c).take 8 = encodeByte p (green c) := encodeFrame_greenCodes p c
  rw [colorOfFrame, hgreen, encodeFrame_redCodes, encodeFrame_blueCodes, byteOfCodes_encodeByte h,
    byteOfCodes_encodeByte h, byteOfCodes_encodeByte h, mkColor_lanes]

end

/-- Settles O19: every code before RESET is the code of a bit, and a byte's codes read back as the byte. -/
theorem frameDecodesBack : Obligations.FrameDecodesBack := by
  intro p c hp
  have hdata (i : Nat) (hi : i < 24) :
      (encodeFrame p c)[i]? = some (oneCode p) ∨ (encodeFrame p c)[i]? = some (zeroCode p) := by
    obtain ⟨x, hx⟩ := exists_encodeFrame_getElem?_eq_encodeBit (p := p) (c := c) hi
    rw [hx]
    exact (encodeBit_eq_oneCode_or_zeroCode p x).imp (congrArg some) (congrArg some)
  have honeZero : oneCode p ≠ zeroCode p := oneCode_ne_zeroCode hp
  obtain ⟨-, -, hshort, -⟩ := hp
  exact ⟨encodeFrame_length p c, hdata, encodeFrame_getElem?_last p c, honeZero,
    oneCode_ne_resetCode p, zeroCode_ne_resetCode p, colorOfFrame_encodeFrame hshort⟩

/-- Settles O21: three bytes' data codes and RESET; the defaults' numbers are put in. -/
theorem frameWireTime : Obligations.FrameWireTime := by
  have hsum (p : Params) (c : Color) :
      ((encodeFrame p c).map codeCycles).sum = 24 * (p.longCycles + p.shortCycles) + p.resetCycles := by
    have hreset : codeCycles (resetCode p) = p.resetCycles := rfl
    simp only [encodeFrame, List.map_append, List.sum_append, encodeByte_cycles, List.map_singleton,
      List.sum_singleton, hreset]
    omega
  exact ⟨hsum, fun c => hsum thisHardware c, rfl⟩

/-! ### The code at an index -/

section
variable (p : Params) (c : Color) {i : BitVec 5}

/-! R127: the clause of `frame_code` that an index falls under. -/

theorem frameCode_green (hi : i.toNat ≤ 7) : frameCode p c i = encodeBit p ((green c).getLsbD (7 - i.toNat)) :=
  if_pos hi

theorem frameCode_red (hlo : 8 ≤ i.toNat) (hhi : i.toNat ≤ 15) :
    frameCode p c i = encodeBit p ((red c).getLsbD (15 - i.toNat)) := by
  rw [frameCode, if_neg (by omega), if_pos hhi]

theorem frameCode_blue (hlo : 16 ≤ i.toNat) (hhi : i.toNat ≤ 23) :
    frameCode p c i = encodeBit p ((blue c).getLsbD (23 - i.toNat)) := by
  rw [frameCode, if_neg (by omega), if_neg (by omega), if_pos hhi]

theorem frameCode_reset (hlo : 24 ≤ i.toNat) : frameCode p c i = resetCode p := by
  rw [frameCode, if_neg (by omega), if_neg (by omega), if_neg (by omega)]

/-- R127: up to 24, the code at an index is the frame's element, channel by channel. -/
theorem encodeFrame_getElem?_eq_frameCode (hi : i.toNat ≤ 24) :
    (encodeFrame p c)[i.toNat]? = some (frameCode p c i) := by
  by_cases hgreen : i.toNat ≤ 7
  · rw [frameCode_green p c hgreen]
    exact encodeFrame_getElem?_of_byte (encodeFrame_greenCodes p c) (Nat.zero_le _) (by omega)
  by_cases hred : i.toNat ≤ 15
  · rw [frameCode_red p c (by omega) hred]
    exact encodeFrame_getElem?_of_byte (encodeFrame_redCodes p c) (by omega) (by omega)
  by_cases hblue : i.toNat ≤ 23
  · rw [frameCode_blue p c (by omega) hblue]
    exact encodeFrame_getElem?_of_byte (encodeFrame_blueCodes p c) (by omega) (by omega)
  · have hlast : i.toNat = 24 := by omega
    rw [frameCode_reset p c hlast.ge, hlast, encodeFrame_getElem?_last]

end

/-- Settles O20: the frame's element, the clauses of `frame_code`, and the example computed. -/
theorem frameCodeIsFrameElement : Obligations.FrameCodeIsFrameElement := fun p c _ =>
  ⟨encodeFrame_getElem?_eq_frameCode p c, frameCode_green p c, fun ⟨hlo, hhi⟩ => frameCode_red p c hlo hhi,
    fun ⟨hlo, hhi⟩ => frameCode_blue p c hlo hhi, frameCode_reset p c, rfl⟩

end Sys2Proof.Machine
end

section
/-! `lerp` (spec/41_animation.md rules R145, R149 to R151, R157 and R158): the weighted sum of the two channels lies
between 256 times the smaller and 256 times the larger one, so the quotient is a channel and nothing is cut off. -/

namespace Sys2Proof.Machine

open Sys2Proof.Config

/-! ### One lane -/

section
variable (a b : Byte) {ratio : Nat} (h : ratio ≤ 256)
include h

/-- The two weights of R145 are 256 together. -/
theorem mul_ratio_add_mul_rest (n : Nat) : n * ratio + n * (256 - ratio) = n * 256 := by
  rw [← Nat.mul_add, Nat.add_sub_cancel' h]

theorem weightedSum_le_max : a.toNat * ratio + b.toNat * (256 - ratio) ≤ max a.toNat b.toNat * 256 := by
  rw [← mul_ratio_add_mul_rest h]
  gcongr
  · exact le_max_left _ _
  · exact le_max_right _ _

theorem min_le_weightedSum : min a.toNat b.toNat * 256 ≤ a.toNat * ratio + b.toNat * (256 - ratio) := by
  rw [← mul_ratio_add_mul_rest h]
  gcongr
  · exact min_le_left _ _
  · exact min_le_right _ _

/-- R149: the sum of the two products is at most `255 * 256`. -/
theorem weightedSum_le : a.toNat * ratio + b.toNat * (256 - ratio) ≤ 65280 := by
  have hsum := weightedSum_le_max a b h
  have ha := a.isLt
  have hb := b.isLt
  omega

/-- R145, R150: `lerp` is the exact quotient, which fits a channel. -/
theorem lerp_toNat : (lerp a b ratio).toNat = (a.toNat * ratio + b.toNat * (256 - ratio)) / 256 := by
  have hsum := weightedSum_le a b h
  rw [lerp, BitVec.toNat_ofNat, Nat.mod_eq_of_lt (by omega)]

theorem lerp_comm : lerp a b ratio = lerp b a (256 - ratio) := by
  rw [lerp, lerp, Nat.sub_sub_self h, Nat.add_comm]

theorem lerp_self : lerp a a ratio = a := by
  apply BitVec.eq_of_toNat_eq
  rw [lerp_toNat a a h, mul_ratio_add_mul_rest h, Nat.mul_div_cancel _ (by decide)]

end

@[simp] theorem lerp_zero (a b : Byte) : lerp a b 0 = b := by
  apply BitVec.eq_of_toNat_eq
  rw [lerp_toNat a b (Nat.zero_le 256), Nat.mul_zero, Nat.zero_add, Nat.mul_div_cancel _ (by decide)]

@[simp] theorem lerp_full (a b : Byte) : lerp a b 256 = a := by
  rw [lerp_comm a b le_rfl, Nat.sub_self, lerp_zero]

/-- Settles O30: the quotient is a floor, and at either end one weight is 0. -/
theorem lerpTruncates : Obligations.LerpTruncates := by
  refine ⟨fun a b r h => ?_, fun a b => ⟨lerp_zero a b, lerp_full a b⟩, by decide⟩
  rw [lerp_toNat a b h]
  exact ⟨Nat.mul_div_le _ _, Nat.lt_mul_div_succ _ (by decide)⟩

/-! ### Three lanes -/

section
variable (c0 c1 : Color) (ratio : Nat)

@[simp] theorem red_lerpColor : red (lerpColor c0 c1 ratio) = lerp (red c0) (red c1) ratio := red_mkColor _ _ _

@[simp] theorem green_lerpColor : green (lerpColor c0 c1 ratio) = lerp (green c0) (green c1) ratio :=
  green_mkColor _ _ _

@[simp] theorem blue_lerpColor : blue (lerpColor c0 c1 ratio) = lerp (blue c0) (blue c1) ratio := blue_mkColor _ _ _

@[simp] theorem lerpColor_zero : lerpColor c0 c1 0 = c1 := by simp [lerpColor]

@[simp] theorem lerpColor_full : lerpColor c0 c1 256 = c0 := by simp [lerpColor]

theorem lerpColor_self {ratio : Nat} (h : ratio ≤ 256) : lerpColor c0 c0 ratio = c0 := by
  simp [lerpColor, lerp_self _ h]

end

end Sys2Proof.Machine
end

section
/-! A tick (spec/41_animation.md rules R141 to R144, R146 to R152, R155 and R157): the ratio and the flip in terms of
`ELAPSED` and `CUR_PERIOD`, then what a Blinky tick stores, in one equation for the tick that flips and one for the tick
that does not. -/

namespace Sys2Proof.Machine

open Sys2Proof.Config

/-- Settles O22: the four results of R141. -/
theorem steadyTick : Obligations.SteadyTick := by
  intro p s hop
  rw [tick_steady p hop]
  exact ⟨rfl, rfl, rfl, rfl⟩

/-! ### The ratio and the flip -/

theorem ratioOf_le {raw : Nat} (h : raw ≤ 256) (forward : Bool) : ratioOf forward raw ≤ 256 := by
  cases forward with
  | true => exact h
  | false => exact Nat.sub_le 256 raw

/-- R147: the two ways to flip. -/
theorem flips_iff (forward : Bool) (ratio : Nat) :
    flips forward ratio = true ↔ (forward = true ∧ ratio = 256) ∨ (forward = false ∧ ratio = 0) := by
  cases forward <;> simp [flips]

/-- In either direction the flip is at the end of the raw ratio's range. -/
theorem flips_ratioOf {raw : Nat} (h : raw ≤ 256) (forward : Bool) :
    flips forward (ratioOf forward raw) = true ↔ raw = 256 := by
  cases forward with
  | true => simp [flips, ratioOf]
  | false =>
    simp only [flips, ratioOf, Bool.false_eq_true, if_false, beq_iff_eq]
    omega

/-- R152: the floor reaches 256 only at the period. -/
theorem rawRatio_eq_256_iff {elapsed period : Nat} (hpos : 1 ≤ period) (hle : elapsed ≤ period) :
    rawRatio elapsed period = 256 ↔ elapsed = period := by
  constructor
  · intro h
    have hmul : 256 * period ≤ elapsed * 256 := (Nat.le_div_iff_mul_le hpos).mp h.ge
    omega
  · rintro rfl
    exact Nat.mul_div_cancel_left 256 hpos

theorem rawRatio_zero (period : Nat) : rawRatio 0 period = 0 := by
  rw [rawRatio, Nat.zero_mul, Nat.zero_div]

theorem rawRatio_eq_zero_iff {elapsed period : Nat} (hpos : 1 ≤ period) :
    rawRatio elapsed period = 0 ↔ elapsed * 256 < period :=
  Nat.div_eq_zero_iff_lt hpos

section
variable {s : State}

theorem tickRatio_le (hle : s.elapsed ≤ s.curPeriod) : tickRatio s ≤ 256 := ratioOf_le (rawRatio_le hle) s.forward

/-- R152. -/
theorem flips_tickRatio_iff (hpos : 1 ≤ s.curPeriod) (hle : s.elapsed ≤ s.curPeriod) :
    flips s.forward (tickRatio s) = true ↔ s.elapsed = s.curPeriod := by
  rw [tickRatio, flips_ratioOf (rawRatio_le hle), rawRatio_eq_256_iff hpos hle]

/-- R155, R156: the ratio at the start of a half-cycle. -/
theorem tickRatio_at_start (h : s.elapsed = 0) : tickRatio s = if s.forward then 0 else 256 := by
  rw [tickRatio, h, rawRatio_zero, ratioOf]

/-- R155, R156: the ratio at the end of a half-cycle. -/
theorem tickRatio_at_period (hpos : 1 ≤ s.curPeriod) (h : s.elapsed = s.curPeriod) :
    tickRatio s = if s.forward then 256 else 0 := by
  rw [tickRatio, (rawRatio_eq_256_iff hpos h.le).mpr h, ratioOf]

end

/-! ### What a Blinky tick stores -/

section
variable (p : Params) {s : State} (hop : s.curOp = .blinky)
include hop

theorem tick_nextSleep_of_blinky : (tick p s).nextSleep = p.refreshInterval := by
  rw [tick_blinky p hop, tickBlinky]

theorem tick_color_of_blinky : (tick p s).color = lerpColor s.curC0 s.curC1 (tickRatio s) := by
  rw [tick_blinky p hop, tickBlinky]

/-- R147: a flip turns the direction and clears `ELAPSED`. -/
theorem tick_of_flips (h : flips s.forward (tickRatio s) = true) :
    (tick p s).forward = !s.forward ∧ (tick p s).elapsed = 0 := by
  simp [tick_blinky p hop, tickBlinky, forwardAfter, h]

/-- R146, R147: without a flip the direction stays and `ELAPSED` advances. -/
theorem tick_of_not_flips (h : ¬flips s.forward (tickRatio s) = true) :
    (tick p s).forward = s.forward ∧ (tick p s).elapsed = advance p.refreshInterval s.elapsed s.curPeriod := by
  simp [tick_blinky p hop, tickBlinky, forwardAfter, h]

theorem tick_forward_ne_iff_flips : (tick p s).forward ≠ s.forward ↔ flips s.forward (tickRatio s) = true := by
  by_cases h : flips s.forward (tickRatio s) = true
  · simp [(tick_of_flips p hop h).1, h]
  · simp [(tick_of_not_flips p hop h).1, h]

/-- R152. -/
theorem tick_forward_ne_iff (hpos : 1 ≤ s.curPeriod) (hle : s.elapsed ≤ s.curPeriod) :
    (tick p s).forward ≠ s.forward ↔ s.elapsed = s.curPeriod :=
  (tick_forward_ne_iff_flips p hop).trans (flips_tickRatio_iff hpos hle)

/-- R156: a half-cycle starts from `color1` forward and from `color0` in reverse. -/
theorem tick_color_at_start (h : s.elapsed = 0) : (tick p s).color = if s.forward then s.curC1 else s.curC0 := by
  rw [tick_color_of_blinky p hop, tickRatio_at_start h]
  cases s.forward <;> simp

/-- R155, R156: a half-cycle ends at `color0` forward and at `color1` in reverse. -/
theorem tick_color_at_period (hpos : 1 ≤ s.curPeriod) (h : s.elapsed = s.curPeriod) :
    (tick p s).color = if s.forward then s.curC0 else s.curC1 := by
  rw [tick_color_of_blinky p hop, tickRatio_at_period hpos h]
  cases s.forward <;> simp

/-- The animation after the flipping tick. -/
theorem animationOf_storeTick_at_period (hpos : 1 ≤ s.curPeriod) (h : s.elapsed = s.curPeriod) :
    animationOf (storeTick (tick p s) s) = { animationOf s with forward := !s.forward, elapsed := 0 } := by
  obtain ⟨hforward, helapsed⟩ := tick_of_flips p hop ((flips_tickRatio_iff hpos h.le).mpr h)
  simp [animationOf, hforward, helapsed]

/-- The animation after a tick below the period. -/
theorem animationOf_storeTick_below_period (h : s.elapsed < s.curPeriod) :
    animationOf (storeTick (tick p s) s) =
      { animationOf s with elapsed := advance p.refreshInterval s.elapsed s.curPeriod } := by
  have hpos : 1 ≤ s.curPeriod := Nat.one_le_of_lt h
  obtain ⟨hforward, helapsed⟩ := tick_of_not_flips p hop ((flips_tickRatio_iff hpos h.le).not.mpr h.ne)
  simp [animationOf, hforward, helapsed]

end

/-- Settles O23: each lane is the exact quotient, and the flip cases are those of `flips`. -/
theorem blinkyTick : Obligations.BlinkyTick := by
  intro p s hop hinv P E I raw ratio lane
  have hlane (a b : Byte) : (lerp a b (tickRatio s)).toNat = lane a b :=
    lerp_toNat a b (tickRatio_le (hinv hop).2)
  have hflips := flips_iff s.forward (tickRatio s)
  rw [tick_color_of_blinky p hop, red_lerpColor, green_lerpColor, blue_lerpColor]
  refine ⟨hlane _ _, hlane _ _, hlane _ _, fun h => ?_, fun h => ?_, fun h => ?_, tick_nextSleep_of_blinky p hop⟩
  · obtain ⟨hforward, helapsed⟩ := tick_of_flips p hop (hflips.mpr (.inl h))
    exact ⟨by rw [hforward, h.1, Bool.not_true], helapsed⟩
  · obtain ⟨hforward, helapsed⟩ := tick_of_flips p hop (hflips.mpr (.inr h))
    exact ⟨by rw [hforward, h.1, Bool.not_false], helapsed⟩
  · exact tick_of_not_flips p hop (hflips.not.mpr (not_or.mpr h))

/-- Settles O24: the period bounds `ELAPSED`, so each width follows from R48 and the registers' widths; in `lerp` the
sum bounds both products. -/
theorem tickNeverOverflows : Obligations.TickNeverOverflows := by
  constructor
  · intro p s hp hop hinv hw
    obtain ⟨hpos, hle⟩ := hinv hop
    have hsleep := tick_nextSleep_lt hp s
    have hinterval : p.refreshInterval < 2 ^ p.durW := tick_nextSleep_of_blinky p hop ▸ hsleep
    obtain ⟨hperiod, helapsed, -⟩ := hw
    refine ⟨?_, ?_, rawRatio_le hle, ?_, advance_le_period _ _ _, tick_elapsed_le_period p hop, hperiod, hsleep, hpos⟩
    · exact Nat.mul_le_mul_right 256 (Nat.le_sub_one_of_lt helapsed)
    · rw [Nat.pow_add]
      omega
    · rw [Nat.pow_succ]
      omega
  · intro a b ratio h
    have hsum := weightedSum_le a b h
    refine ⟨(Nat.le_add_right _ _).trans hsum, (Nat.le_add_left _ _).trans hsum, hsum, ?_⟩
    rw [lerp_toNat a b h, Nat.shiftRight_eq_div_pow]

/-- Settles O25: the quotient of a sum between 256 times the smaller channel and 256 times the larger one. -/
theorem ratioAndLerpRanges : Obligations.RatioAndLerpRanges := by
  constructor
  · intro s hop hinv
    obtain ⟨-, hle⟩ := hinv hop
    exact ⟨rawRatio_le hle, tickRatio_le hle⟩
  · intro a b ratio h
    have hlt := (lerp a b ratio).isLt
    refine ⟨?_, ?_, Nat.le_of_lt_succ hlt⟩
    · rw [lerp_toNat a b h]
      exact (Nat.le_div_iff_mul_le (by decide)).mpr (min_le_weightedSum a b h)
    · rw [lerp_toNat a b h]
      exact Nat.div_le_of_le_mul ((weightedSum_le_max a b h).trans_eq (Nat.mul_comm _ 256))

/-- Settles O26: the raw ratio is 256 exactly at the period, and a flip needs exactly that. -/
theorem flipExactlyAtPeriod : Obligations.FlipExactlyAtPeriod := by
  refine ⟨fun elapsed period hpos hle => ?_, fun p s hop hinv => ?_, rfl, rfl⟩
  · have hperiod := rawRatio_eq_256_iff hpos hle
    have hreverse : ratioOf false (rawRatio elapsed period) = 0 ↔ rawRatio elapsed period = 256 := by
      simpa [flips] using flips_ratioOf (rawRatio_le hle) false
    exact ⟨hperiod, hperiod, hreverse.trans hperiod, rawRatio_eq_zero_iff hpos⟩
  · obtain ⟨hpos, hle⟩ := hinv hop
    exact tick_forward_ne_iff p hop hpos hle

/-- Settles O28: the tick after the flip starts at `ELAPSED = 0` in the other direction, whose ratio there is the
flipping tick's. -/
theorem boundaryColourSentTwice : Obligations.BoundaryColourSentTwice := by
  intro p s hop hpos h
  have hratio := tickRatio_at_period hpos h
  obtain ⟨hforward, helapsed⟩ := tick_of_flips p hop ((flips_tickRatio_iff hpos h.le).mpr h)
  have hnext : tickRatio (storeTick (tick p s) s) = tickRatio s := by
    rw [tickRatio_at_start helapsed, storeTick_forward, hforward, hratio]
    cases s.forward <;> rfl
  refine ⟨tick_color_at_period p hop hpos h, ?_, hratio, hnext⟩
  rw [tick_color_of_blinky p (s := storeTick (tick p s) s) hop, hnext, tick_color_of_blinky p hop]
  rfl

/-- Settles O29: swapping the channels swaps the weights, which are 256 together and so keep equal colours. -/
theorem lerpSymmetry : Obligations.LerpSymmetry := by
  refine ⟨fun a b r h => ⟨lerp_comm a b h, lerp_self a h⟩, fun p s hop hinv heq => ?_⟩
  obtain ⟨hpos, hle⟩ := hinv hop
  refine ⟨?_, tick_forward_ne_iff p hop hpos hle, tick_nextSleep_of_blinky p hop⟩
  rw [tick_color_of_blinky p hop, ← heq, lerpColor_self _ (tickRatio_le hle)]

end Sys2Proof.Machine
end

section
/-! A half-cycle (spec/41_animation.md rules R154 and R156): the animation at each tick by induction on the ticks since
`ELAPSED` was 0, then the flip that ends it. -/

namespace Sys2Proof.Machine

open Sys2Proof.Config

/-- Two stretches of ticks, one after the other. -/
theorem ticksAlone_add (p : Params) (m n : Nat) (s : State) :
    ticksAlone p (m + n) s = ticksAlone p n (ticksAlone p m s) := by
  induction m generalizing s with
  | zero => rw [Nat.zero_add, ticksAlone]
  | succ m ih => rw [Nat.succ_add, ticksAlone, ih, ticksAlone]

theorem ticksAlone_succ (p : Params) (n : Nat) (s : State) :
    ticksAlone p (n + 1) s = storeTick (tick p (ticksAlone p n s)) (ticksAlone p n s) :=
  ticksAlone_add p n 1 s

/-- The registers of a state whose animation is known. -/
theorem animationOf_eq_iff (s : State) (a : Animation) :
    animationOf s = a ↔ s.curOp = a.op ∧ s.curC0 = a.c0 ∧ s.curC1 = a.c1 ∧ s.curPeriod = a.period ∧
      s.forward = a.forward ∧ s.elapsed = a.elapsed := by
  rw [animationOf, Animation.mk.injEq]

/-- R154: the multiples of the interval that are below the period are the first `ceil(P / I)`. -/
theorem mul_lt_iff_lt_ceilDiv {interval : Nat} (h : 0 < interval) (period k : Nat) :
    k * interval < period ↔ k < period ⌈/⌉ interval := by
  rw [Nat.mul_comm, ← not_le, ← not_le, ceilDiv_le_iff_le_mul h]

theorem min_mul_eq_iff {interval period k : Nat} (h : 0 < interval) (hk : k ≤ period ⌈/⌉ interval) :
    min (k * interval) period = period ↔ k = period ⌈/⌉ interval := by
  have hlt := mul_lt_iff_lt_ceilDiv h period k
  omega

theorem ceilDiv_eq_one {interval period : Nat} (hpos : 1 ≤ period) (hle : period ≤ interval) :
    period ⌈/⌉ interval = 1 :=
  Nat.div_eq_of_lt_le (by omega) (by omega)

section
variable {p : Params} {s : State} (hI : 0 < p.refreshInterval) (hop : s.curOp = .blinky) (hpos : 1 ≤ s.curPeriod)
  (hzero : s.elapsed = 0)
include hI hop hzero

/-- R154: tick `k` of a half-cycle finds the animation of the start, but for `ELAPSED = min(k * I, P)`. -/
theorem animationOf_ticksAlone {k : Nat} (hk : k ≤ s.curPeriod ⌈/⌉ p.refreshInterval) :
    animationOf (ticksAlone p k s) =
      { animationOf s with elapsed := min (k * p.refreshInterval) s.curPeriod } := by
  induction k with
  | zero => simp [ticksAlone, animationOf, hzero]
  | succ k ih =>
    have hlt : k * p.refreshInterval < s.curPeriod := (mul_lt_iff_lt_ceilDiv hI _ _).mpr hk
    have hu := ih (Nat.le_of_succ_le hk)
    obtain ⟨huop, -, -, huperiod, -, huelapsed⟩ := (animationOf_eq_iff _ _).mp hu
    have hbelow : (ticksAlone p k s).elapsed < (ticksAlone p k s).curPeriod := by
      rw [huelapsed, huperiod]
      exact (Nat.min_le_left _ _).trans_lt hlt
    have hadvance : advance p.refreshInterval (min (k * p.refreshInterval) s.curPeriod) s.curPeriod =
        min ((k + 1) * p.refreshInterval) s.curPeriod := by
      rw [advance, Nat.succ_mul]
      omega
    rw [ticksAlone_succ, animationOf_storeTick_below_period p (huop.trans hop) hbelow, hu, huelapsed, huperiod,
      ← hadvance]
    rfl

/-- R154: the last tick of a half-cycle finds the animation of the start, but for `ELAPSED = P`. -/
theorem animationOf_ticksAlone_last :
    animationOf (ticksAlone p (s.curPeriod ⌈/⌉ p.refreshInterval) s) =
      { animationOf s with elapsed := s.curPeriod } := by
  rw [animationOf_ticksAlone hI hop hzero le_rfl, (min_mul_eq_iff hI le_rfl).mpr rfl]

include hpos

/-- R154, R156: what tick `k` of a half-cycle starts with, sends and flips. -/
theorem halfCycle_tick {k : Nat} (hk : k ≤ s.curPeriod ⌈/⌉ p.refreshInterval) :
    (ticksAlone p k s).elapsed = min (k * p.refreshInterval) s.curPeriod ∧
    (ticksAlone p k s).forward = s.forward ∧
    (tick p (ticksAlone p k s)).color = lerpColor s.curC0 s.curC1
      (ratioOf s.forward (rawRatio (min (k * p.refreshInterval) s.curPeriod) s.curPeriod)) ∧
    ((tick p (ticksAlone p k s)).forward ≠ (ticksAlone p k s).forward ↔ k = s.curPeriod ⌈/⌉ p.refreshInterval) := by
  obtain ⟨huop, huc0, huc1, huperiod, huforward, huelapsed⟩ :=
    (animationOf_eq_iff _ _).mp (animationOf_ticksAlone hI hop hzero hk)
  have hle : (ticksAlone p k s).elapsed ≤ (ticksAlone p k s).curPeriod := by
    rw [huelapsed, huperiod]
    exact Nat.min_le_right _ _
  refine ⟨huelapsed, huforward, ?_, ?_⟩
  · rw [tick_color_of_blinky p (huop.trans hop), tickRatio, huc0, huc1, huperiod, huforward, huelapsed]
    rfl
  · rw [tick_forward_ne_iff p (huop.trans hop) (hpos.trans_eq huperiod.symm) hle, huelapsed, huperiod]
    exact min_mul_eq_iff hI hk

/-- R156: the last tick of a half-cycle sends the colour at the other end. -/
theorem halfCycle_last_color :
    (tick p (ticksAlone p (s.curPeriod ⌈/⌉ p.refreshInterval) s)).color =
      if s.forward then s.curC0 else s.curC1 := by
  obtain ⟨huop, huc0, huc1, huperiod, huforward, huelapsed⟩ :=
    (animationOf_eq_iff _ _).mp (animationOf_ticksAlone_last hI hop hzero)
  rw [tick_color_at_period p (huop.trans hop) (hpos.trans_eq huperiod.symm) (huelapsed.trans huperiod.symm), huc0, huc1,
    huforward]
  rfl

/-- R154: a half-cycle reverses the direction and changes nothing else of the animation. -/
theorem animationOf_halfCycle :
    animationOf (ticksAlone p (s.curPeriod ⌈/⌉ p.refreshInterval + 1) s) =
      { animationOf s with forward := !s.forward } := by
  have hu := animationOf_ticksAlone_last hI hop hzero
  obtain ⟨huop, -, -, huperiod, huforward, huelapsed⟩ := (animationOf_eq_iff _ _).mp hu
  rw [ticksAlone_succ, animationOf_storeTick_at_period p (huop.trans hop) (hpos.trans_eq huperiod.symm)
    (huelapsed.trans huperiod.symm), hu, huforward]
  simp [animationOf, hzero]

/-- R154: a full back-and-forth cycle gives the animation back. -/
theorem animationOf_fullCycle :
    animationOf (ticksAlone p (2 * (s.curPeriod ⌈/⌉ p.refreshInterval + 1)) s) = animationOf s := by
  have hu := animationOf_halfCycle hI hop hpos hzero
  obtain ⟨huop, -, -, huperiod, huforward, huelapsed⟩ := (animationOf_eq_iff _ _).mp hu
  have hback := animationOf_halfCycle hI (huop.trans hop) (hpos.trans_eq huperiod.symm) (huelapsed.trans hzero)
  rw [huperiod, huforward, hu] at hback
  rw [Nat.two_mul, ticksAlone_add]
  exact hback.trans (by simp [animationOf])

end

/-- Settles O27: the ticks of one half-cycle, its first and last colours, and the flip that ends it; the second
half-cycle is the same in the other direction. -/
theorem halfCycle : Obligations.HalfCycle := by
  intro p s hp hop hpos hzero P I N
  obtain ⟨-, -, -, -, -, -, -, hI, -⟩ := hp
  refine ⟨fun k hk => ?_, (min_mul_eq_iff hI le_rfl).mpr rfl, tick_color_at_start p hop hzero,
    halfCycle_last_color hI hop hpos hzero, animationOf_halfCycle hI hop hpos hzero,
    animationOf_fullCycle hI hop hpos hzero, fun h => congrArg (· + 1) (ceilDiv_eq_one hpos h), fun ⟨hP, hI⟩ => ?_⟩
  · obtain ⟨helapsed, hforward, hcolor, hflip⟩ := halfCycle_tick hI hop hpos hzero (Nat.le_of_lt_succ hk)
    refine ⟨helapsed, fun hnot => ?_, hforward, hcolor, hflip.trans Nat.succ_inj.symm⟩
    exact helapsed.trans (Nat.min_eq_left ((mul_lt_iff_lt_ceilDiv hI _ _).mpr (Nat.lt_of_succ_lt_succ hnot)).le)
  · simp [N, hP, hI]

end Sys2Proof.Machine
end

section
/-! A Steady over a run (spec/41_animation.md rule R141, spec/42_command_channel.md rule R177): while no command waits,
no cycle writes the current command, and the only colour a tick stores is its own. -/

namespace Sys2Proof.Machine

open Sys2Proof.Config

/-- A property that every step from a state with a property of the whole run keeps. -/
theorem stateAfter_induction_throughout {p : Params} {P Q : State → Prop}
    (hstep : ∀ s t, Q s → P s → clockStep p s = .next t → P t) {n : Nat} {s t : State} (hs : P s)
    (h : stateAfter p n s = some t) (hrun : Throughout p n s Q) : P t := by
  induction n generalizing s with
  | zero => cases h; exact hs
  | succ n ih =>
    obtain ⟨u, hu, h⟩ := stateAfter_succ_some h
    obtain ⟨hq, hrun⟩ := (throughout_succ hu).mp hrun
    exact ih (hstep s u hq hs hu) h hrun

/-- A Steady of the given colour is current and on the wire, and no command waits. -/
def SteadyShown (c : Color) (s : State) : Prop :=
  s.curOp = .steady ∧ s.curC0 = c ∧ s.frameColor = c ∧ s.q = []

/-- R141, R177: a cycle under a Steady that no command reaches shows its colour, if the frame has it already or the
cycle is the tick that stores it. -/
theorem steadyShown_clockStep {p : Params} {s t : State} (hop : s.curOp = .steady) (hq : s.q = [])
    (hframe : s.phase = .tick ∨ s.frameColor = s.curC0) (hrst : NoReset s) (hnone : queuedWord? p s = none)
    (h : clockStep p s = .next t) : SteadyShown s.curC0 t := by
  obtain ⟨u, hu, rfl⟩ := (clockStep_next_iff p hrst t).mp h
  have hqu : u.q = [] := by simp [sequencer_q hu, hq]
  have hshown : u.curOp = s.curOp ∧ u.curC0 = s.curC0 ∧ u.frameColor = s.curC0 := by
    obtain ⟨-, rfl⟩ | ⟨hp, _, _, rfl⟩ | ⟨hp, _, _, rfl⟩ | ⟨-, hne, -⟩ | ⟨hp, -, _, _, rfl⟩ | ⟨hp, rfl⟩ :=
      sequencer_writes hu
    case inl => exact ⟨rfl, rfl, congrArg TickResult.color (tick_steady p hop)⟩
    case inr.inr.inr.inl => exact absurd hq hne
    all_goals exact ⟨rfl, rfl, hframe.resolve_left (by simp [hp])⟩
  obtain ⟨huop, huc0, hucolor⟩ := hshown
  refine ⟨?_, ?_, ?_, ?_⟩
  · simp [huop, hop]
  · simp [huc0]
  · simp [hucolor]
  · simp [portStep_q, hqu, hnone]

/-- Settles O51: the first cycle is the tick that stores the colour, and every later cycle keeps it. -/
theorem steadyHoldsItsColour : Obligations.SteadyHoldsItsColour := by
  intro p n s t hop hphase hq h hrun hn
  obtain ⟨n, rfl⟩ := Nat.exists_eq_add_one.mpr hn
  obtain ⟨u, hu, h⟩ := stateAfter_succ_some h
  obtain ⟨⟨hrst, hnone⟩, hrun⟩ := (throughout_succ hu).mp hrun
  have hfirst : SteadyShown s.curC0 u := steadyShown_clockStep hop hq (.inl hphase) hrst hnone hu
  refine stateAfter_induction_throughout (P := SteadyShown s.curC0) ?_ hfirst h hrun
  rintro v w ⟨hvrst, hvnone⟩ ⟨hvop, hvc0, hvcolor, hvq⟩ hw
  exact hvc0 ▸ steadyShown_clockStep hvop hvq (.inr (hvcolor.trans hvc0.symm)) hvrst hvnone hw

end Sys2Proof.Machine
end

section
/-! The command channel (spec/42_command_channel.md rules R171 to R173 and R176 to R179): what applying a command
writes, and what the port does with an accepted word. -/

namespace Sys2Proof.Machine

open Sys2Proof.Config

/-! ### Applying a command -/

/-- Settles O31: the state `exec` answers, field by field. -/
theorem steadyApplied : Obligations.SteadyApplied := fun c s => ⟨_, exec_steady c s, by simp⟩

/-- Settles O32: the state `exec` answers for a period other than 0, field by field. -/
theorem blinkyApplied : Obligations.BlinkyApplied := fun c0 c1 _ s h =>
  ⟨_, exec_blinky (Nat.ne_zero_of_lt h) c0 c1 s, by simp⟩

/-- Settles O34: a Steady's tick sends its colour, and a Blinky's first tick is at `ELAPSED = 0`, forward. -/
theorem commandReplacesAnimation : Obligations.CommandReplacesAnimation := by
  intro p i s t h
  obtain ⟨c, rfl, rfl⟩ | ⟨c0, c1, period, rfl, hne, rfl⟩ := (exec_next_iff i s t).mp h
  · exact ⟨rfl, tickDefined_steady rfl, congrArg TickResult.color (tick_steady p rfl)⟩
  · have hdefined : 1 ≤ period ∧ 0 ≤ period := ⟨Nat.one_le_iff_ne_zero.mpr hne, Nat.zero_le period⟩
    exact ⟨rfl, (tickDefined_blinky rfl).mpr hdefined, tick_color_at_start p rfl rfl⟩

/-! ### An accepted word -/

/-- R171: a full queue accepts nothing. -/
theorem accepted?_of_full (p : Params) (i : PortIn) {s : State} (h : s.q.length = 2) : accepted? p i s = none := by
  simp [accepted?, cmdReady, h]

/-- R171, R172: with room, an offer outside reset is accepted as it is. -/
theorem accepted?_of_room {p : Params} {i : PortIn} {s : State} (hrst : i.rst = false) (hvalid : i.cmdValid = true)
    (hroom : s.q.length < 2) (hdata : i.cmdData < 2 ^ p.cmdW) : accepted? p i s = some i.cmdData := by
  simp [accepted?, cmdReady, portWord, hrst, hvalid, hroom, Nat.mod_eq_of_lt hdata]

/-- R172: the port pushes an accepted word that decodes. -/
theorem portStep_of_legal {p : Params} {i : PortIn} {start : State} {w : Nat} {cmd : Instr}
    (ha : accepted? p i start = some w) (hd : decode p w = .ok cmd) (s : State) :
    portStep p i start s = pushCommand w s := by
  simp [portStep, ha, acceptCommand, hd]

/-- R176: a pop and a push in one cycle leave `Q_COUNT` as it was. -/
theorem length_tail_append_singleton {α : Type} {l : List α} (h : l ≠ []) (a : α) :
    (l.tail ++ [a]).length = l.length := by
  simp [Nat.sub_add_cancel (List.length_pos_iff.mpr h)]

/-- Settles O35: the sequencer pops, the port pushes behind what is left. -/
theorem acceptedWordIsPushed : Obligations.AcceptedWordIsPushed := by
  refine ⟨fun p s w i hs hrst ha hd => ?_, fun p i s => accepted?_of_full p i, fun p i s => accepted?_of_room⟩
  obtain ⟨u, hu⟩ := exists_sequencer_next hs (currentIn s)
  obtain ⟨hkeep, -, -⟩ := sequencer_keeps hu
  have hstep : clockStep p s = .next (nextCycle (pushCommand w u)) :=
    (clockStep_next_iff p hrst _).mpr ⟨u, hu, by rw [portStep_of_legal ha hd]⟩
  have hq : (nextCycle (pushCommand w u)).q = (if s.phase = .race then s.q.tail else s.q) ++ [w] := by
    rw [nextCycle_q, pushCommand_q, sequencer_q hu]
  refine ⟨_, hstep, hq, hkeep, fun hrace hne => ?_⟩
  rw [State.qCount, hq, if_pos hrace, length_tail_append_singleton hne, State.qCount]

/-! ### An offer that is taken away -/

/-- The same block in a cycle whose offer is taken away. -/
def withoutOffer (s : State) : State :=
  { s with inputs := { currentIn s with cmdValid := false } :: s.inputs.tail }

/-- Applying a command neither reads nor writes the host's coming moves. -/
theorem exec_setInputs {cmd : Instr} {s t : State} (h : exec cmd s = .next t) (inputs : List PortIn) :
    exec cmd { s with inputs := inputs } = .next { t with inputs := inputs } := by
  obtain ⟨c, rfl, rfl⟩ | ⟨c0, c1, period, rfl, hne, rfl⟩ := (exec_next_iff cmd s t).mp h
  · rfl
  · exact exec_blinky hne c0 c1 _

/-- R171, R247: the sequencer's part of a cycle does not depend on the offer. In RACE it reads other ports only; in the
other phases it is the same off the command side, and on the command side what it leaves is known. -/
theorem sequencer_withoutOffer {p : Params} {s u : State} (hs : BlockInv p s)
    (hu : sequencer p (currentIn s) s = .next u) :
    sequencer p (currentIn (withoutOffer s)) (withoutOffer s) = .next { u with inputs := (withoutOffer s).inputs } := by
  by_cases hp : s.phase = .race
  · rw [sequencer_race hp, phaseRace_next_iff] at hu
    rw [sequencer_race (s := withoutOffer s) hp, phaseRace_next_iff]
    obtain ⟨w, rest, cmd, hq, hd, hexec⟩ | ⟨hq, hz, rfl⟩ | ⟨hq, hz, ht, rfl⟩ | ⟨hq, hz, ht, rfl⟩ := hu
    · exact .inl ⟨w, rest, cmd, hq, hd, exec_setInputs hexec _⟩
    · exact .inr (.inl ⟨hq, hz, rfl⟩)
    · exact .inr (.inr (.inl ⟨hq, hz, ht, rfl⟩))
    · exact .inr (.inr (.inr ⟨hq, hz, ht, rfl⟩))
  · obtain ⟨v, hv⟩ := exists_sequencer_next (s := withoutOffer s) hs (currentIn (withoutOffer s))
    have hsame : offCommands [] u = offCommands [] v := Host.Outcome.next.inj
      ((sequencer_offCommands hp hu []).symm.trans (sequencer_offCommands (s := withoutOffer s) hp hv []))
    have hvq : v.q = u.q := (sequencer_q hv).trans (sequencer_q hu).symm
    obtain ⟨hvrejected, hvinputs, -⟩ := sequencer_keeps hv
    obtain ⟨hurejected, -, -⟩ := sequencer_keeps hu
    rw [hv, ← (offCommands_eq_iff v u).mp hsame, hvq, hvrejected, hvinputs, hurejected]
    rfl

/-- A cycle without the offer is the sequencer's part alone. -/
theorem clockStep_withoutOffer {p : Params} {s u : State} (hs : BlockInv p s) (hrst : NoReset s)
    (hu : sequencer p (currentIn s) s = .next u) : clockStep p (withoutOffer s) = .next (nextCycle u) := by
  refine (clockStep_next_iff p (s := withoutOffer s) hrst _).mpr ⟨_, sequencer_withoutOffer hs hu, ?_⟩
  obtain ⟨-, hinputs, -⟩ := sequencer_keeps hu
  rw [portStep_of_not_valid (i := currentIn (withoutOffer s)) rfl, nextCycle, hinputs]
  rfl

/-- Settles O36: the port's part of the cycle is the rejection, and without the offer it is nothing. -/
theorem illegalWordIsDiscarded : Obligations.IllegalWordIsDiscarded := by
  intro p s w e hs hrst ha hd
  obtain ⟨u, hu⟩ := exists_sequencer_next hs (currentIn s)
  obtain ⟨hkeep, -, -⟩ := sequencer_keeps hu
  obtain ⟨hop, hperiod, -⟩ := (decode_error_iff (accepted?_lt ha) e).mp hd
  have hstep : clockStep p s = .next (nextCycle (rejectCommand u)) :=
    (clockStep_next_iff p hrst _).mpr ⟨u, hu, by rw [portStep_of_illegal ha hop hperiod]⟩
  have hq : (nextCycle (rejectCommand u)).q = if s.phase = .race then s.q.tail else s.q := by
    rw [nextCycle_q, rejectCommand_q, sequencer_q hu]
  refine ⟨_, hstep, rfl, hq, (clockStep_withoutOffer hs hrst hu).trans ?_⟩
  rw [← hkeep]
  rfl

end Sys2Proof.Machine
end

section
/-! The table of spec/43_driver_loop.md rule R201, row by row with what the phases' rules write (R202 to R214), and the
two facts about every step that follow from it: the next `PHASE`, and where `CODE_IDX` stands once a frame is handed
over. -/

namespace Sys2Proof.Machine

open Sys2Proof.Config

/-- The rows of R201's table for a cycle with `rst = 0` and the input ports `i`: from `s` the row's phase goes to the
given state. `sequencer_next_iff` ties them to the model. -/
inductive PhaseRow (p : Params) (i : PortIn) (s : State) : State → Prop
  | frameStarts (hphase : s.phase = .tick) (hdef : tickDefined s = true) :
      PhaseRow p i s { storeTick (tick p s) s with codeIdx := 0#5, phase := .tx }
  | lastCodeTaken (hphase : s.phase = .tx) (hready : i.pcReady = true) (hidx : s.codeIdx = 24#5) :
      PhaseRow p i s { s with phase := .txWait }
  | codeTaken (hphase : s.phase = .tx) (hready : i.pcReady = true) (hidx : s.codeIdx.toNat < 24) :
      PhaseRow p i s { s with codeIdx := s.codeIdx + 1#5 }
  | sinkPauses (hphase : s.phase = .tx) (hready : i.pcReady = false) : PhaseRow p i s s
  | txFails (hphase : s.phase = .txWait) (hvalid : i.txRespValid = true) (hfail : i.txRespFail = true) :
      PhaseRow p i s (raiseFault .txFail s)
  | txSucceeds (hphase : s.phase = .txWait) (hvalid : i.txRespValid = true) (hfail : i.txRespFail = false) :
      PhaseRow p i s { s with phase := .race }
  | noResponse (hphase : s.phase = .txWait) (hvalid : i.txRespValid = false) : PhaseRow p i s s
  | commandWins {w : Nat} {rest : List Nat} {cmd : Instr} {t : State} (hphase : s.phase = .race)
      (hq : s.q = w :: rest) (hd : decode p w = .ok cmd) (hexec : exec cmd { s with q := rest } = .next t) :
      PhaseRow p i s t
  | timerExpires (hphase : s.phase = .race) (hq : s.q = []) (hzero : s.sleepRem = 0) :
      PhaseRow p i s { s with phase := .tick }
  | timerCounts (hphase : s.phase = .race) (hq : s.q = []) (hleft : s.sleepRem ≠ 0) (hpulse : i.timeTick = true) :
      PhaseRow p i s { s with sleepRem := s.sleepRem - 1 }
  | timerWaits (hphase : s.phase = .race) (hq : s.q = []) (hleft : s.sleepRem ≠ 0) (hpulse : i.timeTick = false) :
      PhaseRow p i s s
  | haltStays (hphase : s.phase = .halt) : PhaseRow p i s s

/-- The sequencer goes from state to state exactly as the table's rows say. -/
theorem sequencer_next_iff (p : Params) (i : PortIn) (s t : State) :
    sequencer p i s = .next t ↔ PhaseRow p i s t := by
  constructor
  · intro h
    cases hphase : s.phase with
    | tick =>
      rw [sequencer_tick hphase, phaseTick_next_iff] at h
      obtain ⟨hdef, rfl⟩ := h
      exact .frameStarts hphase hdef
    | tx =>
      rw [sequencer_tx hphase, phaseTx_next_iff] at h
      obtain ⟨hready, hidx, rfl⟩ | ⟨hready, hidx, rfl⟩ | ⟨hready, rfl⟩ := h
      · exact .lastCodeTaken hphase hready hidx
      · exact .codeTaken hphase hready hidx
      · exact .sinkPauses hphase hready
    | txWait =>
      rw [sequencer_txWait hphase, phaseTxWait_next_iff] at h
      obtain ⟨hvalid, hfail, rfl⟩ | ⟨hvalid, hfail, rfl⟩ | ⟨hvalid, rfl⟩ := h
      · exact .txFails hphase hvalid hfail
      · exact .txSucceeds hphase hvalid hfail
      · exact .noResponse hphase hvalid
    | race =>
      rw [sequencer_race hphase, phaseRace_next_iff] at h
      obtain ⟨w, rest, cmd, hq, hd, hexec⟩ | ⟨hq, hzero, rfl⟩ | ⟨hq, hleft, hpulse, rfl⟩ |
        ⟨hq, hleft, hpulse, rfl⟩ := h
      · exact .commandWins hphase hq hd hexec
      · exact .timerExpires hphase hq hzero
      · exact .timerCounts hphase hq hleft hpulse
      · exact .timerWaits hphase hq hleft hpulse
    | halt =>
      rw [sequencer_halt hphase] at h
      cases h
      exact .haltStays hphase
  · intro h
    cases h with
    | frameStarts hphase hdef => simp [sequencer_tick hphase, phaseTick_next_iff, hdef]
    | lastCodeTaken hphase hready hidx => simp [sequencer_tx hphase, phaseTx_next_iff, hready, hidx]
    | codeTaken hphase hready hidx => simp [sequencer_tx hphase, phaseTx_next_iff, hready, hidx]
    | sinkPauses hphase hready => simp [sequencer_tx hphase, phaseTx_next_iff, hready]
    | txFails hphase hvalid hfail => simp [sequencer_txWait hphase, phaseTxWait_next_iff, hvalid, hfail]
    | txSucceeds hphase hvalid hfail => simp [sequencer_txWait hphase, phaseTxWait_next_iff, hvalid, hfail]
    | noResponse hphase hvalid => simp [sequencer_txWait hphase, phaseTxWait_next_iff, hvalid]
    | commandWins hphase hq hd hexec => simp [sequencer_race hphase, phaseRace_next_iff, hq, hd, hexec]
    | timerExpires hphase hq hzero => simp [sequencer_race hphase, phaseRace_next_iff, hq, hzero]
    | timerCounts hphase hq hleft hpulse => simp [sequencer_race hphase, phaseRace_next_iff, hq, hleft, hpulse]
    | timerWaits hphase hq hleft hpulse => simp [sequencer_race hphase, phaseRace_next_iff, hq, hleft, hpulse]
    | haltStays hphase => exact sequencer_halt hphase

/-- A row's cycle outside reset: the command port's part and the host's next cycle follow it. -/
theorem PhaseRow.clockStep {p : Params} {s u : State} (h : PhaseRow p (currentIn s) s u) (hrst : NoReset s) :
    clockStep p s = .next (nextCycle (portStep p (currentIn s) s u)) :=
  (clockStep_next_iff p hrst _).mpr ⟨u, (sequencer_next_iff p _ s u).mpr h, rfl⟩

/-- The inversion of a step outside reset, by the row it takes. -/
theorem exists_phaseRow {p : Params} {s t : State} (hrst : NoReset s) (h : clockStep p s = .next t) :
    ∃ u, PhaseRow p (currentIn s) s u ∧ t = nextCycle (portStep p (currentIn s) s u) := by
  obtain ⟨u, hu, ht⟩ := (clockStep_next_iff p hrst t).mp h
  exact ⟨u, (sequencer_next_iff p _ s u).mp hu, ht⟩

/-! ### What applying a command and the command port leave of the state -/

/-- R177 to R179: applying a command replaces the animation and goes to TICK; no other register changes. -/
theorem exec_writes {cmd : Instr} {s t : State} (h : exec cmd s = .next t) :
    t.phase = .tick ∧ animationOf t = Animation.ofCommand cmd ∧ t.frameColor = s.frameColor ∧
      t.sleepRem = s.sleepRem ∧ t.codeIdx = s.codeIdx ∧ t.q = s.q ∧ t.faultCause = s.faultCause := by
  obtain ⟨c, rfl, rfl⟩ | ⟨c0, c1, period, rfl, -, rfl⟩ := (exec_next_iff cmd s t).mp h
  · exact ⟨rfl, rfl, rfl, rfl, rfl, rfl, rfl⟩
  · exact ⟨rfl, rfl, rfl, rfl, rfl, rfl, rfl⟩

theorem exec_phase {cmd : Instr} {s t : State} (h : exec cmd s = .next t) : t.phase = .tick := (exec_writes h).1

@[simp] theorem animationOf_nextCycle (s : State) : animationOf (nextCycle s) = animationOf s := rfl

@[simp] theorem animationOf_portStep (p : Params) (i : PortIn) (start s : State) :
    animationOf (portStep p i start s) = animationOf s := by
  simp [animationOf]

/-- The animation is R32 to R37's registers alone: whatever the others are set to, it is the same. -/
@[simp] theorem animationOf_setOthers (s : State) (phase : Phase) (frameColor : Color) (sleepRem : Nat)
    (codeIdx : BitVec 5) (q : List Nat) (faultCause : FaultCause) :
    animationOf { s with phase, frameColor, sleepRem, codeIdx, q, faultCause } = animationOf s := rfl

/-- Settles O6: reset goes to TICK; the row that hands the last code over leaves the index at 24, and the rows from
TXWAIT, RACE and HALT leave it alone. -/
theorem stepKeepsFrameDone : Obligations.StepKeepsFrameDone := by
  refine ⟨by decide, fun p s t hs h => ?_⟩
  obtain ⟨-, rfl⟩ | ⟨-, u, hu, rfl⟩ := clockStep_cases h
  · simp [FrameDoneInv]
  suffices FrameDoneInv u by simpa [FrameDoneInv] using this
  cases (sequencer_next_iff p _ s u).mp hu with
  | frameStarts => simp [FrameDoneInv]
  | lastCodeTaken _ _ hidx => exact fun _ => hidx
  | codeTaken hphase => simp [FrameDoneInv, hphase]
  | txFails hphase => exact fun _ => hs (.inl hphase)
  | txSucceeds hphase => exact fun _ => hs (.inl hphase)
  | commandWins _ _ _ hexec => simp [FrameDoneInv, exec_phase hexec]
  | timerExpires => simp [FrameDoneInv]
  | timerCounts hphase => exact fun _ => hs (.inr (.inl hphase))
  | sinkPauses | noResponse | timerWaits | haltStays => exact hs

/-- Settles O40: the next state exists by the invariants, and each row's phase is the table's. -/
theorem phaseTable : Obligations.PhaseTable := by
  intro p s hs
  obtain ⟨t, ht⟩ := exists_clockStep_next hs
  refine ⟨t, ht, ?_⟩
  obtain ⟨hrst, rfl⟩ | ⟨hrst, u, hu, rfl⟩ := clockStep_cases ht
  · simp [hrst]
  rw [nextCycle_phase, portStep_phase, hrst]
  cases (sequencer_next_iff p _ s u).mp hu with
  | frameStarts hphase => simp [hphase]
  | lastCodeTaken hphase hready hidx => simp [hphase, hready, hidx]
  | codeTaken hphase _ hidx => simp [hphase, hidx.ne]
  | sinkPauses hphase hready => simp [hphase, hready]
  | txFails hphase hvalid hfail => simp [hphase, hvalid, hfail]
  | txSucceeds hphase hvalid hfail => simp [hphase, hvalid, hfail]
  | noResponse hphase hvalid => simp [hphase, hvalid]
  | commandWins hphase hq _ hexec => simp [hphase, hq, exec_phase hexec]
  | timerExpires hphase hq hzero => simp [hphase, hq, hzero]
  | timerCounts hphase hq hleft => simp [hphase, hq, hleft]
  | timerWaits hphase hq hleft => simp [hphase, hq, hleft]
  | haltStays hphase => simp [hphase]

end Sys2Proof.Machine
end

section
/-! One cycle of each phase (spec/43_driver_loop.md rules R202, R203, R205, R207 and R210): that it has a next
state, what it writes and what it leaves alone. -/

namespace Sys2Proof.Machine

open Sys2Proof.Config

/-- Settles O41: the row that starts the frame, field by field. -/
theorem tickPhaseWrites : Obligations.TickPhaseWrites := by
  intro p s hs hphase hrst
  have hrow := PhaseRow.frameStarts (p := p) (i := currentIn s) hphase (tickDefined_of_animationInv hs)
  exact ⟨_, hrow.clockStep hrst, by simp [portStep_q]⟩

/-- R202: the one row of a TICK cycle. -/
theorem clockStep_tick_eq {p : Params} {s t : State} (hphase : s.phase = .tick) (hrst : NoReset s)
    (h : clockStep p s = .next t) :
    t = nextCycle (portStep p (currentIn s) s { storeTick (tick p s) s with codeIdx := 0#5, phase := .tx }) := by
  obtain ⟨u, hu, rfl⟩ := (clockStep_next_iff p hrst t).mp h
  rw [sequencer_tick hphase, phaseTick_next_iff] at hu
  obtain ⟨-, rfl⟩ := hu
  rfl

theorem animationOf_after_tick {p : Params} {s t : State} (hphase : s.phase = .tick) (hrst : NoReset s)
    (h : clockStep p s = .next t) : animationOf t = animationOf (storeTick (tick p s) s) := by
  rw [clockStep_tick_eq hphase hrst h, animationOf_nextCycle, animationOf_portStep]
  rfl

/-! ### The code the sink takes -/

theorem takenCode?_of_ready (p : Params) {s : State} (hphase : s.phase = .tx) (hrst : NoReset s)
    (hready : (currentIn s).pcReady = true) : takenCode? p s = some (frameCode p s.frameColor s.codeIdx) := by
  simp [takenCode?, outputs, hphase, hrst, hready, offeredCode]

theorem takenCode?_of_pause (p : Params) {s : State} (hready : (currentIn s).pcReady = false) :
    takenCode? p s = none := by
  simp [takenCode?, hready]

theorem takenCode?_of_phase_ne (p : Params) {s : State} (hphase : s.phase ≠ .tx) : takenCode? p s = none := by
  simp [takenCode?, outputs, hphase]

/-- Settles O42: the three TX rows. -/
theorem txPhaseHandsOver : Obligations.TxPhaseHandsOver := by
  intro p s hs hphase hrst
  cases hready : (currentIn s).pcReady with
  | false =>
    have hrow := PhaseRow.sinkPauses (p := p) hphase hready
    exact ⟨_, hrow.clockStep hrst, by simp [hphase, takenCode?_of_pause p hready]⟩
  | true =>
    have htaken := takenCode?_of_ready p hphase hrst hready
    rcases hs.eq_or_lt with hlast | hlt
    · have hrow := PhaseRow.lastCodeTaken (p := p) hphase hready (codeIdx_eq_last.mpr hlast)
      exact ⟨_, hrow.clockStep hrst, by simp [htaken, hlast]⟩
    · have hrow := PhaseRow.codeTaken (p := p) hphase hready hlt
      exact ⟨_, hrow.clockStep hrst, by simp [htaken, hphase, hlt.ne, codeIdx_succ_toNat hlt, -BitVec.toNat_add]⟩

/-- Settles O44: the TXWAIT rows of success and of no response. -/
theorem responseEndsTheWait : Obligations.ResponseEndsTheWait := by
  intro p s hphase hrst
  constructor
  · intro hvalid hfail
    have hrow := PhaseRow.txSucceeds (p := p) hphase hvalid hfail
    exact ⟨_, hrow.clockStep hrst, by simp⟩
  · intro hvalid
    have hrow := PhaseRow.noResponse (p := p) hphase hvalid
    exact ⟨_, hrow.clockStep hrst, by simp [hphase]⟩

/-- Settles O39: this hardware's step at its own parameters. -/
theorem stepRunsTheDecodedCommand : Obligations.StepRunsTheDecodedCommand :=
  fun _ _ _ _ _ hphase hrst hq hd hexec => clockStep_race_command hphase hrst hq hd hexec

/-- Settles O46: the four RACE rows. -/
theorem raceArbiter : Obligations.RaceArbiter := by
  intro p s hs hphase hrst
  obtain ⟨u, hu⟩ := exists_phaseRace_next hs (currentIn s)
  have hrow : PhaseRow p (currentIn s) s u := (sequencer_next_iff p _ s u).mp ((sequencer_race hphase).trans hu)
  refine ⟨_, hrow.clockStep hrst, ?_⟩
  cases hrow with
  | commandWins _ hq hd hexec =>
    obtain ⟨hnext, hanim, hcolor, hsleep, hidx, hrest, hcause⟩ := exec_writes hexec
    simp [portStep_q, hq, hd, hnext, hanim, hcolor, hsleep, hidx, hrest, hcause]
  | timerExpires _ hq hzero => simp [portStep_q, hq, hzero]
  | timerCounts _ hq hleft hpulse => simp [portStep_q, hphase, hq, hleft, hpulse]
  | timerWaits _ hq hleft hpulse => simp [portStep_q, hphase, hq, hleft, hpulse]
  | frameStarts h | lastCodeTaken h | codeTaken h | sinkPauses h | txFails h | txSucceeds h | noResponse h
  | haltStays h => simp [hphase] at h

end Sys2Proof.Machine
end

section
/-! The inputs that a cycle reads (spec/43_driver_loop.md rule R206, spec/20_memory.md rule R74, spec/30_encoding.md
rule R103, spec/42_command_channel.md rule R174): its phase's own and the command port's. -/

namespace Sys2Proof.Machine

open Sys2Proof.Config

/-- The two input ports agree on what the phase of `s` reads. -/
def AgreeInPhase (s : State) (i j : PortIn) : Prop :=
  (s.phase = .tx → j.pcReady = i.pcReady) ∧
  (s.phase = .txWait →
    j.txRespValid = i.txRespValid ∧ (j.txRespValid = true → j.txRespFail = i.txRespFail)) ∧
  (s.phase = .race → s.q = [] → j.timeTick = i.timeTick)

/-- The sequencer reads the inputs of its phase only. -/
theorem sequencer_congr {s : State} {i j : PortIn} (h : AgreeInPhase s i j) (p : Params) :
    sequencer p j s = sequencer p i s := by
  obtain ⟨htx, hwait, hrace⟩ := h
  cases hphase : s.phase with
  | tick => rw [sequencer_tick hphase, sequencer_tick hphase]
  | tx => rw [sequencer_tx hphase, sequencer_tx hphase, phaseTx, phaseTx, htx hphase]
  | txWait =>
    obtain ⟨hvalid, hfail⟩ := hwait hphase
    rw [sequencer_txWait hphase, sequencer_txWait hphase, phaseTxWait, phaseTxWait]
    cases hv : j.txRespValid with
    | false => simp [← hvalid, hv]
    | true => simp [← hvalid, hv, hfail hv]
  | race =>
    rw [sequencer_race hphase, sequencer_race hphase]
    cases hq : s.q with
    | nil => simp only [phaseRace, hq, hrace hphase hq]
    | cons w rest => simp only [phaseRace, hq]
  | halt => rw [sequencer_halt hphase, sequencer_halt hphase]

/-- A cycle reads `rst`, the inputs of its phase, and what the command port accepts. -/
theorem clockCycle_congr {p : Params} {s : State} {i j : PortIn} (hrst : j.rst = i.rst) (h : AgreeInPhase s i j)
    (haccept : accepted? p j s = accepted? p i s) : clockCycle p j s = clockCycle p i s := by
  simp only [clockCycle, hrst, sequencer_congr h, portStep, haccept]

/-! ### The host's coming moves -/

/-- An outcome with its next state changed by `f`. -/
def mapNext (f : State → State) : Host.Outcome State Fault Refusal → Host.Outcome State Fault Refusal
  | .next t => .next (f t)
  | .fault r => .fault r
  | .refused r => .refused r

/-- The same block with other coming moves. -/
def setInputs (inputs : List PortIn) (s : State) : State := { s with inputs := inputs }

/-- A step is a cycle and the host's next one. -/
theorem clockStep_eq_mapNext (p : Params) (s : State) :
    clockStep p s = mapNext nextCycle (clockCycle p (currentIn s) s) := by
  rw [clockStep]
  cases clockCycle p (currentIn s) s <;> rfl

/-- The sequencer neither reads nor writes the coming moves. -/
theorem sequencer_setInputs (p : Params) (i : PortIn) (inputs : List PortIn) (s : State) :
    sequencer p i (setInputs inputs s) = mapNext (setInputs inputs) (sequencer p i s) := by
  cases hphase : s.phase with
  | tick =>
    rw [sequencer_tick (s := setInputs inputs s) hphase, sequencer_tick hphase]
    simp only [phaseTick, apply_ite (mapNext (setInputs inputs))]
    rfl
  | tx =>
    rw [sequencer_tx (s := setInputs inputs s) hphase, sequencer_tx hphase]
    simp only [phaseTx, apply_ite (mapNext (setInputs inputs))]
    rfl
  | txWait =>
    rw [sequencer_txWait (s := setInputs inputs s) hphase, sequencer_txWait hphase]
    simp only [phaseTxWait, apply_ite (mapNext (setInputs inputs))]
    rfl
  | race =>
    rw [sequencer_race (s := setInputs inputs s) hphase, sequencer_race hphase]
    have hsame : (setInputs inputs s).q = s.q := rfl
    cases hq : s.q with
    | nil =>
      simp only [phaseRace, hsame, hq, apply_ite (mapNext (setInputs inputs))]
      rfl
    | cons w rest =>
      simp only [phaseRace, hsame, hq]
      cases hd : decode p w with
      | ok cmd =>
        obtain ⟨t, ht⟩ := exec_of_decode hd { s with q := rest }
        simp only [ht]
        exact exec_setInputs ht inputs
      | error e => rfl
  | halt => rw [sequencer_halt (s := setInputs inputs s) hphase, sequencer_halt hphase]; rfl

theorem portStep_setInputs (p : Params) (i : PortIn) (inputs : List PortIn) (start s : State) :
    portStep p i (setInputs inputs start) (setInputs inputs s) = setInputs inputs (portStep p i start s) := by
  rw [portStep_congr (start := setInputs inputs start) (start' := start) rfl, portStep, portStep]
  cases accepted? p i start with
  | none => rfl
  | some w =>
    simp only [acceptCommand]
    cases decode p w <;> rfl

/-- A cycle neither reads nor writes the coming moves. -/
theorem clockCycle_setInputs (p : Params) (i : PortIn) (inputs : List PortIn) (s : State) :
    clockCycle p i (setInputs inputs s) = mapNext (setInputs inputs) (clockCycle p i s) := by
  rw [clockCycle, clockCycle]
  cases i.rst with
  | true => rfl
  | false =>
    simp only [sequencer_setInputs]
    cases sequencer p i s with
    | next t => exact congrArg Host.Outcome.next (portStep_setInputs p i inputs s t)
    | fault r => rfl
    | refused r => rfl

theorem clockCycle_inputs {p : Params} {i : PortIn} {s t : State} (h : clockCycle p i s = .next t) :
    t.inputs = s.inputs := by
  rw [clockCycle] at h
  cases hrst : i.rst with
  | true =>
    simp only [hrst, if_true, Host.Outcome.next.injEq] at h
    rw [← h, resetBlock_inputs]
  | false =>
    cases hu : sequencer p i s with
    | next u =>
      obtain ⟨-, hinputs, -⟩ := sequencer_keeps hu
      simp only [hrst, hu, Bool.false_eq_true, if_false, Host.Outcome.next.injEq] at h
      rw [← h, portStep_inputs, hinputs]
    | fault r => simp [hrst, hu] at h
    | refused r => simp [hrst, hu] at h

/-- The cycle uses up the next move, whatever it is. -/
theorem nextCycle_setInputs {j : PortIn} {s t : State} (h : t.inputs = s.inputs) :
    nextCycle (setInputs (j :: s.inputs.tail) t) = nextCycle t := by
  rw [nextCycle, nextCycle, h]
  rfl

/-- Settles O45: with other moves to come the cycle is the same cycle, and it reads only what the two inputs agree
on. -/
theorem inputsOutsideTheirPhaseIgnored : Obligations.InputsOutsideTheirPhaseIgnored := by
  intro p s j hrst htx hwait hrace haccept
  have hcycle := clockCycle_congr hrst ⟨htx, hwait, hrace⟩ haccept
  calc clockStep p (setInputs (j :: s.inputs.tail) s)
      = mapNext nextCycle (mapNext (setInputs (j :: s.inputs.tail)) (clockCycle p (currentIn s) s)) := by
        rw [clockStep_eq_mapNext, ← hcycle, ← clockCycle_setInputs]
        rfl
    _ = mapNext nextCycle (clockCycle p (currentIn s) s) := by
        cases hc : clockCycle p (currentIn s) s with
        | next t => exact congrArg Host.Outcome.next (nextCycle_setInputs (clockCycle_inputs hc))
        | fault r => rfl
        | refused r => rfl
    _ = clockStep p s := (clockStep_eq_mapNext p s).symm

end Sys2Proof.Machine
end

section
/-! Runs whose cycles share a property (spec/43_driver_loop.md rule R219). -/

namespace Sys2Proof.Machine

open Sys2Proof.Config

theorem throughout_of_le {p : Params} {m n : Nat} {s : State} {P : State → Prop} (h : Throughout p n s P)
    (hle : m ≤ n) : Throughout p m s P := fun k hk => h k (hk.trans_le hle)

/-- A property that gives every cycle a next state, which has it again, carries a run to its end. -/
theorem exists_stateAfter_throughout {p : Params} {P Q : State → Prop}
    (hstep : ∀ s, Q s → P s → ∃ t, clockStep p s = .next t ∧ P t) {n : Nat} {s : State} (hs : P s)
    (hrun : Throughout p n s Q) : ∃ t, stateAfter p n s = some t ∧ P t := by
  induction n generalizing s with
  | zero => exact ⟨s, rfl, hs⟩
  | succ n ih =>
    obtain ⟨u, hu, hpu⟩ := hstep s (hrun 0 n.succ_pos s rfl) hs
    rw [stateAfter_succ hu]
    exact ih hpu ((throughout_succ hu).mp hrun).2

/-- Such a property holds at the start of each of the cycles. -/
theorem throughout_of_exists_next {p : Params} {P Q : State → Prop}
    (hstep : ∀ s, Q s → P s → ∃ t, clockStep p s = .next t ∧ P t) {n : Nat} {s : State} (hs : P s)
    (hrun : Throughout p n s Q) : Throughout p n s P := by
  intro k hk t ht
  obtain ⟨u, hu, hpu⟩ := exists_stateAfter_throughout hstep hs (throughout_of_le hrun hk.le)
  rw [ht] at hu
  cases hu
  exact hpu

/-- The last step of a run that does not stop. -/
theorem stateAfter_last {p : Params} {n : Nat} {s t : State} (h : stateAfter p (n + 1) s = some t) :
    ∃ u, stateAfter p n s = some u ∧ clockStep p u = .next t := by
  induction n generalizing s with
  | zero =>
    obtain ⟨u, hu, h⟩ := stateAfter_succ_some h
    cases h
    exact ⟨s, rfl, hu⟩
  | succ n ih =>
    obtain ⟨v, hv, h⟩ := stateAfter_succ_some h
    rw [stateAfter_succ hv]
    exact ih h

/-- A run none of whose cycles hands anything over hands nothing over. -/
theorem gather_eq_nil {α : Type} {p : Params} {f : State → Option α} {n : Nat} {s : State}
    (h : Throughout p n s fun u => f u = none) : gather p f n s = [] := by
  induction n generalizing s with
  | zero => rfl
  | succ n ih =>
    have hnone : f s = none := h 0 n.succ_pos s rfl
    cases hstep : clockStep p s with
    | next t => rw [gather_succ f hstep, hnone, ih ((throughout_succ hstep).mp h).2]; rfl
    | fault r => simp [gather, hstep, hnone]
    | refused r => simp [gather, hstep, hnone]

end Sys2Proof.Machine
end

section
/-! The frame in flight (spec/43_driver_loop.md rule R203, spec/20_memory.md rule R76): the codes a frame still owes its
sink, and a conservation law for them of one cycle, summed over the cycles. -/

namespace Sys2Proof.Machine

open Sys2Proof.Config

/-- The codes of the frame in flight that the sink has still to take: in TX those from `CODE_IDX` on, otherwise none. -/
def codesLeft (p : Params) (s : State) : List PulseCode :=
  if s.phase = .tx then (encodeFrame p s.frameColor).drop s.codeIdx.toNat else []

theorem codesLeft_of_tx (p : Params) {s : State} (h : s.phase = .tx) :
    codesLeft p s = (encodeFrame p s.frameColor).drop s.codeIdx.toNat := if_pos h

theorem codesLeft_of_phase_ne (p : Params) {s : State} (h : s.phase ≠ .tx) : codesLeft p s = [] := if_neg h

/-- Neither the command port nor the host's next cycle is any part of it. -/
theorem codesLeft_nextCycle_portStep (p : Params) (i : PortIn) (start s : State) :
    codesLeft p (nextCycle (portStep p i start s)) = codesLeft p s := by
  simp [codesLeft]

/-- The code on offer is the first of those left, and the index after it starts the rest. -/
theorem frameCode_cons_drop (p : Params) (c : Color) {i : BitVec 5} (h : i.toNat ≤ 24) :
    frameCode p c i :: (encodeFrame p c).drop (i.toNat + 1) = (encodeFrame p c).drop i.toNat := by
  rw [List.drop_eq_getElem?_toList_append (i := i.toNat), encodeFrame_getElem?_eq_frameCode p c h]
  rfl

/-- R202: a TICK cycle starts the whole frame of the tick's colour. -/
theorem codesLeft_after_tick {p : Params} {s t : State} (hphase : s.phase = .tick) (hrst : NoReset s)
    (h : clockStep p s = .next t) : codesLeft p t = encodeFrame p (iterationColor p s) := by
  rw [clockStep_tick_eq hphase hrst h, codesLeft_nextCycle_portStep]
  rfl

/-- R203: between two ticks no cycle drops, repeats or reorders a code: what is left is what the cycle hands over and
what it leaves. -/
theorem codesLeft_conserved {p : Params} {s t : State} (hphase : s.phase ≠ .tick) (hrst : NoReset s)
    (h : clockStep p s = .next t) : (takenCode? p s).toList ++ codesLeft p t = codesLeft p s := by
  obtain ⟨u, hrow, rfl⟩ := exists_phaseRow hrst h
  rw [codesLeft_nextCycle_portStep]
  cases hrow with
  | frameStarts htick => exact absurd htick hphase
  | lastCodeTaken htx hready hidx =>
    have hlast : s.codeIdx.toNat = 24 := codeIdx_eq_last.mp hidx
    have hend : (encodeFrame p s.frameColor).drop (s.codeIdx.toNat + 1) = [] := by simp [hlast]
    rw [takenCode?_of_ready p htx hrst hready, codesLeft_of_tx p htx, ← frameCode_cons_drop p _ hlast.le, hend]
    rfl
  | codeTaken htx hready hidx =>
    have hrest : codesLeft p { s with codeIdx := s.codeIdx + 1#5 } =
        (encodeFrame p s.frameColor).drop (s.codeIdx.toNat + 1) := by
      rw [← codeIdx_succ_toNat hidx]
      exact codesLeft_of_tx p htx
    rw [takenCode?_of_ready p htx hrst hready, codesLeft_of_tx p htx, ← frameCode_cons_drop p _ hidx.le, hrest]
    rfl
  | sinkPauses _ hready => rw [takenCode?_of_pause p hready]; rfl
  | commandWins hrace _ _ hexec => simp [takenCode?_of_phase_ne, codesLeft, hrace, exec_phase hexec]
  | txFails hp | txSucceeds hp | noResponse hp | timerExpires hp | timerCounts hp | timerWaits hp | haltStays hp =>
    simp [takenCode?_of_phase_ne, codesLeft, hp]

/-- The law over a run in which no tick starts another frame. -/
theorem codesTaken_append_codesLeft {p : Params} {n : Nat} {s t : State} (h : stateAfter p n s = some t)
    (hrst : Throughout p n s NoReset) (hphase : Throughout p n s fun u => u.phase ≠ .tick) :
    codesTaken p n s ++ codesLeft p t = codesLeft p s := by
  induction n generalizing s with
  | zero => cases h; rfl
  | succ n ih =>
    obtain ⟨u, hu, h⟩ := stateAfter_succ_some h
    obtain ⟨hrst0, hrst⟩ := (throughout_succ hu).mp hrst
    obtain ⟨hphase0, hphase⟩ := (throughout_succ hu).mp hphase
    calc codesTaken p (n + 1) s ++ codesLeft p t
        = (takenCode? p s).toList ++ (codesTaken p n u ++ codesLeft p t) := by
          rw [codesTaken, codesTaken, gather_succ _ hu, List.append_assoc]
      _ = (takenCode? p s).toList ++ codesLeft p u := by rw [ih h hrst hphase]
      _ = codesLeft p s := codesLeft_conserved hphase0 hrst0 hu

/-- Settles O43: at the start the whole frame is left, at the end nothing. -/
theorem frameHandedOverInOrder : Obligations.FrameHandedOverInOrder := by
  intro p n s t hphase hidx h hrst htx hend
  have hlaw := codesTaken_append_codesLeft h hrst fun k hk u hu => by simp [htx k hk u hu]
  rwa [codesLeft_of_phase_ne p (s := t) (by simp [hend]), List.append_nil, codesLeft_of_tx p hphase, hidx] at hlaw

end Sys2Proof.Machine
end

section
/-! The timer of a race (spec/43_driver_loop.md rules R208 and R209): each cycle of an idle race moves one unit from
`SLEEP_REM` to the pulses seen. -/

namespace Sys2Proof.Machine

open Sys2Proof.Config

/-- A `time_tick` pulse in this cycle. -/
def timePulse? (s : State) : Option Unit := if (currentIn s).timeTick then some () else none

/-- An idle race: no command waits, the animation is the given one, and `SLEEP_REM` holds the given units. -/
def IdleRace (a : Animation) (units : Nat) (s : State) : Prop :=
  s.phase = .race ∧ s.q = [] ∧ animationOf s = a ∧ s.sleepRem = units

/-- R207: a cycle of an idle race that no command reaches: it counts the pulse, or leaves if no unit is left. -/
theorem exists_idleRace_next {p : Params} {a : Animation} {units : Nat} {s : State} (hs : IdleRace a units s)
    (hrst : NoReset s) : ∃ t, clockStep p s = .next t ∧ animationOf t = a ∧
      t.q = (queuedWord? p s).toList ∧ (units = 0 → t.phase = .tick) ∧
      (0 < units → t.phase = .race ∧ t.sleepRem + (timePulse? s).toList.length = units) := by
  obtain ⟨hphase, hq, rfl, rfl⟩ := hs
  have hqueue : QueueInv p s := by simp [QueueInv, hq]
  obtain ⟨t, ht, -, -, -, -, hidle, hexpired, hcounts⟩ := raceArbiter p s hqueue hphase hrst
  obtain ⟨hanim, hqt⟩ := hidle hq
  refine ⟨t, ht, hanim, hqt, fun hzero => (hexpired hq hzero).1, fun hpos => ?_⟩
  obtain ⟨hrace, hsleep⟩ := hcounts hq hpos
  refine ⟨hrace, ?_⟩
  cases hpulse : (currentIn s).timeTick with
  | false => simp [hsleep, timePulse?, hpulse]
  | true =>
    simp only [hsleep, timePulse?, hpulse]
    exact Nat.sub_add_cancel hpos

/-- R208: over cycles that no command reaches, each with a unit left, what the timer has lost are the pulses seen. -/
theorem exists_idleRace_run {p : Params} {n : Nat} {a : Animation} {units : Nat} {s : State} (hs : IdleRace a units s)
    (hrun : Throughout p n s fun u => NoReset u ∧ queuedWord? p u = none)
    (hleft : ∀ k, k < n → (gather p timePulse? k s).length < units) :
    ∃ t left, stateAfter p n s = some t ∧ IdleRace a left t ∧ left + (gather p timePulse? n s).length = units := by
  induction n generalizing units s with
  | zero => exact ⟨s, units, rfl, hs, rfl⟩
  | succ n ih =>
    obtain ⟨hrst, hnone⟩ := hrun 0 n.succ_pos s rfl
    obtain ⟨u, hu, hanim, hq, -, hcounts⟩ := exists_idleRace_next (p := p) hs hrst
    obtain ⟨hrace, hsleep⟩ := hcounts (hleft 0 n.succ_pos)
    have hseen (k : Nat) :
        (gather p timePulse? (k + 1) s).length = (timePulse? s).toList.length + (gather p timePulse? k u).length := by
      rw [gather_succ _ hu, List.length_append]
    obtain ⟨t, left, ht, hidle, hsum⟩ := ih (units := u.sleepRem) (s := u)
      ⟨hrace, by simp [hq, hnone], hanim, rfl⟩ ((throughout_succ hu).mp hrun).2 fun k hk => by
        have := hleft (k + 1) (Nat.succ_lt_succ hk)
        rw [hseen] at this
        omega
    refine ⟨t, left, (stateAfter_succ hu n).trans ht, hidle, ?_⟩
    rw [hseen]
    omega

/-- Settles O47: the run keeps the idle race, and once the units are used up the next cycle leaves it. -/
theorem timerExpiry : Obligations.TimerExpiry := by
  intro p n s ticksSeen hphase hq hrun hleft
  obtain ⟨t, left, ht, hidle, hsum⟩ :=
    exists_idleRace_run (a := animationOf s) (units := s.sleepRem) ⟨hphase, hq, rfl, rfl⟩ hrun hleft
  have ⟨htphase, htq, hanim, hsleep⟩ := hidle
  refine ⟨t, ht, htphase, htq, hsleep ▸ hsum, hanim, fun hall hrst => ?_⟩
  have hzero : left = 0 := Nat.add_eq_right.mp (hsum.trans hall.symm)
  obtain ⟨u, hu, huanim, -, hexpired, -⟩ := exists_idleRace_next (p := p) hidle hrst
  exact ⟨u, hu, hexpired hzero, huanim⟩

end Sys2Proof.Machine
end

section
/-! The cycles between two ticks as one iteration (spec/43_driver_loop.md rules R200 and R217). -/

namespace Sys2Proof.Machine

open Sys2Proof.Config

theorem appliedWord?_of_phase_ne {s : State} (h : s.phase ≠ .race) : appliedWord? s = none := by
  simp [appliedWord?, h]

theorem appliedWord?_of_empty {s : State} (h : s.q = []) : appliedWord? s = none := by
  simp [appliedWord?, h]

theorem appliedWord?_of_race {s : State} {w : Nat} {rest : List Nat} (hphase : s.phase = .race) (hrst : NoReset s)
    (hq : s.q = w :: rest) : appliedWord? s = some w := by
  simp [appliedWord?, hphase, hrst, hq]

/-- A cycle that neither starts in TICK nor leads there applies no word and leaves the animation alone. -/
theorem quiet_cycle {p : Params} {s t : State} (hrst : NoReset s) (h : clockStep p s = .next t)
    (hs : s.phase ≠ .tick) (ht : t.phase ≠ .tick) : appliedWord? s = none ∧ animationOf t = animationOf s := by
  obtain ⟨u, hrow, rfl⟩ := exists_phaseRow hrst h
  rw [nextCycle_phase, portStep_phase] at ht
  rw [animationOf_nextCycle, animationOf_portStep]
  cases hrow with
  | frameStarts hphase => exact absurd hphase hs
  | commandWins _ _ _ hexec => exact absurd (exec_phase hexec) ht
  | timerExpires => exact absurd rfl ht
  | timerCounts _ hq | timerWaits _ hq => exact ⟨appliedWord?_of_empty hq, rfl⟩
  | lastCodeTaken hphase | codeTaken hphase | sinkPauses hphase | txFails hphase | txSucceeds hphase
  | noResponse hphase | haltStays hphase => exact ⟨appliedWord?_of_phase_ne (by simp [hphase]), rfl⟩

/-- R207: a cycle that leads to TICK is the end of a race: the timer's with an empty queue, or the waiting command's. -/
theorem race_ends {p : Params} {s t : State} (hrst : NoReset s) (h : clockStep p s = .next t)
    (hs : s.phase ≠ .tick) (ht : t.phase = .tick) :
    (s.q = [] ∧ animationOf t = animationOf s ∧ appliedWord? s = none) ∨
    (∃ w rest cmd, s.q = w :: rest ∧ decode p w = .ok cmd ∧ animationOf t = Animation.ofCommand cmd ∧
      appliedWord? s = some w) := by
  obtain ⟨u, hrow, rfl⟩ := exists_phaseRow hrst h
  rw [nextCycle_phase, portStep_phase] at ht
  rw [animationOf_nextCycle, animationOf_portStep]
  cases hrow with
  | frameStarts hphase => exact absurd hphase hs
  | commandWins hphase hq hd hexec =>
    obtain ⟨-, hanim, -⟩ := exec_writes hexec
    exact .inr ⟨_, _, _, hq, hd, hanim, appliedWord?_of_race hphase hrst hq⟩
  | timerExpires _ hq => exact .inl ⟨hq, rfl, appliedWord?_of_empty hq⟩
  | lastCodeTaken | txFails | txSucceeds => cases ht
  | codeTaken | sinkPauses | noResponse | timerCounts | timerWaits | haltStays => exact absurd ht hs

/-- The same of a run that does not meet TICK, up to its end. -/
theorem quiet_run {p : Params} {n : Nat} {s t : State} (h : stateAfter p n s = some t)
    (hrst : Throughout p n s NoReset) (hphase : Throughout p (n + 1) s fun u => u.phase ≠ .tick) :
    wordsApplied p n s = [] ∧ animationOf t = animationOf s := by
  induction n generalizing s with
  | zero => cases h; exact ⟨rfl, rfl⟩
  | succ n ih =>
    obtain ⟨u, hu, h⟩ := stateAfter_succ_some h
    obtain ⟨hrst0, hrst⟩ := (throughout_succ hu).mp hrst
    obtain ⟨hs, hphase⟩ := (throughout_succ hu).mp hphase
    obtain ⟨hnone, hanim⟩ := quiet_cycle hrst0 hu hs (hphase 0 n.succ_pos u rfl)
    obtain ⟨hwords, hrest⟩ := ih h hrst hphase
    refine ⟨?_, hrest.trans hanim⟩
    rw [wordsApplied, gather_succ _ hu, hnone]
    exact hwords

section
variable {p : Params} {n : Nat} {s u t : State} (hs : s.phase = .tick) (hrst : Throughout p (n + 1) s NoReset)
  (hu : clockStep p s = .next u) (h : stateAfter p n u = some t)
  (hphase : Throughout p n u fun v => v.phase ≠ .tick)
include hs hrst hu h hphase

/-- R202, R203: the TICK cycle starts the frame of its colour, and by the next TICK no code of it is left. -/
theorem codesTaken_iteration (ht : t.phase = .tick) :
    codesTaken p (n + 1) s = encodeFrame p (iterationColor p s) := by
  obtain ⟨hrst0, hrstu⟩ := (throughout_succ hu).mp hrst
  have hlaw := codesTaken_append_codesLeft h hrstu hphase
  rw [codesLeft_of_phase_ne p (s := t) (by simp [ht]), List.append_nil, codesLeft_after_tick hs hrst0 hu] at hlaw
  rw [codesTaken, gather_succ _ hu, takenCode?_of_phase_ne p (s := s) (by simp [hs])]
  exact hlaw

/-- The last cycle before the next TICK: the animation is still the tick's, and no word has been applied. -/
theorem exists_last_cycle (ht : t.phase = .tick) : ∃ v, stateAfter p n s = some v ∧ clockStep p v = .next t ∧
    v.phase ≠ .tick ∧ animationOf v = animationOf (storeTick (tick p s) s) ∧ wordsApplied p n s = [] := by
  obtain ⟨hrst0, hrstu⟩ := (throughout_succ hu).mp hrst
  cases n with
  | zero =>
    cases h
    simp [clockStep_tick_eq hs hrst0 hu] at ht
  | succ n =>
    obtain ⟨v, hv, hlast⟩ := stateAfter_last h
    obtain ⟨hwords, hanim⟩ := quiet_run hv (throughout_of_le hrstu n.le_succ) hphase
    refine ⟨v, (stateAfter_succ hu n).trans hv, hlast, hphase n n.lt_succ_self v hv,
      hanim.trans (animationOf_after_tick hs hrst0 hu), ?_⟩
    rw [wordsApplied, gather_succ _ hu, appliedWord?_of_phase_ne (s := s) (by simp [hs])]
    exact hwords

end

/-- Settles O49. The words applied before the last cycle are none, so those queued before it still wait in it, and it
ends the race. -/
theorem cyclesRefineIteration : Obligations.CyclesRefineIteration := by
  intro p n s t hs ht h hrst hne
  obtain ⟨u, hu, h⟩ := stateAfter_succ_some h
  have hphase : Throughout p n u fun v => v.phase ≠ .tick := fun k hk v hv =>
    hne (k + 1) v k.succ_pos (Nat.succ_lt_succ hk) ((stateAfter_succ hu k).trans hv)
  refine ⟨codesTaken_iteration hs hrst hu h hphase ht, ?_⟩
  obtain ⟨v, hv, hlast, hvtick, hanim, hbefore⟩ := exists_last_cycle hs hrst hu h hphase ht
  have hwaiting : s.q ++ wordsQueued p n s = v.q := by
    rw [commandsAreFifo p n s v hv (throughout_of_le hrst n.le_succ), hbefore, List.nil_append]
  have happlied : wordsApplied p (n + 1) s = (appliedWord? v).toList := by
    rw [wordsApplied, gather_add _ hv, ← wordsApplied, hbefore, gather_succ _ hlast, gather_zero, List.append_nil,
      List.nil_append]
  rw [hwaiting, happlied]
  obtain ⟨hq, hend, hnone⟩ | ⟨w, rest, cmd, hq, hd, hend, hword⟩ :=
    race_ends (hrst n n.lt_succ_self v hv) hlast hvtick ht
  · rw [hq, hnone]
    exact ⟨hend.trans hanim, rfl⟩
  · rw [hq, hword]
    exact ⟨cmd, hd, hend, rfl⟩

end Sys2Proof.Machine
end

section
/-! The length of an iteration (spec/43_driver_loop.md rule R216): 25 codes, a response and a race, each a cycle at
least, and exactly one where nothing waits. -/

namespace Sys2Proof.Machine

open Sys2Proof.Config

/-- How many cycles at least lie between a state and a TICK: in TX one for each code from `CODE_IDX` to 24, one for the
response and one for the race. HALT never gets there, and one is as good a bound as any. -/
def cyclesToTick (s : State) : Nat :=
  match s.phase with
  | .tick => 0
  | .tx => 27 - s.codeIdx.toNat
  | .txWait => 2
  | .race => 1
  | .halt => 1

theorem cyclesToTick_tick {s : State} (h : s.phase = .tick) : cyclesToTick s = 0 := by simp [cyclesToTick, h]

theorem cyclesToTick_nextCycle_portStep (p : Params) (i : PortIn) (start s : State) :
    cyclesToTick (nextCycle (portStep p i start s)) = cyclesToTick s := by
  simp [cyclesToTick]

/-- No cycle outside reset comes nearer to TICK by more than one. -/
theorem cyclesToTick_le_succ {p : Params} {s t : State} (hrst : NoReset s) (h : clockStep p s = .next t) :
    cyclesToTick s ≤ cyclesToTick t + 1 := by
  obtain ⟨u, hrow, rfl⟩ := exists_phaseRow hrst h
  rw [cyclesToTick_nextCycle_portStep]
  cases hrow with
  | frameStarts hphase => simp [cyclesToTick, hphase]
  | lastCodeTaken hphase _ hidx => simp [cyclesToTick, hphase, hidx]
  | codeTaken hphase _ hidx =>
    simp only [cyclesToTick, hphase, codeIdx_succ_toNat hidx]
    omega
  | txFails hphase | txSucceeds hphase | timerExpires hphase | timerCounts hphase => simp [cyclesToTick, hphase]
  | commandWins hphase _ _ hexec => simp [cyclesToTick, hphase, exec_phase hexec]
  | sinkPauses | noResponse | timerWaits | haltStays => exact Nat.le_succ _

theorem cyclesToTick_le_of_run {p : Params} {n : Nat} {s t : State} (h : stateAfter p n s = some t)
    (hrst : Throughout p n s NoReset) (ht : t.phase = .tick) : cyclesToTick s ≤ n := by
  induction n generalizing s with
  | zero => cases h; exact (cyclesToTick_tick ht).le
  | succ n ih =>
    obtain ⟨u, hu, h⟩ := stateAfter_succ_some h
    obtain ⟨hrst0, hrst⟩ := (throughout_succ hu).mp hrst
    exact (cyclesToTick_le_succ hrst0 hu).trans (Nat.succ_le_succ (ih h hrst))

/-- R202: the bound after a TICK cycle. -/
theorem cyclesToTick_after_tick {p : Params} {s t : State} (hphase : s.phase = .tick) (hrst : NoReset s)
    (h : clockStep p s = .next t) : cyclesToTick t = 27 := by
  rw [clockStep_tick_eq hphase hrst h, cyclesToTick_nextCycle_portStep]
  rfl

/-! ### Where nothing waits -/

/-- The sink is ready, and answers success at once. -/
def EagerSink (s : State) : Prop :=
  NoReset s ∧ (currentIn s).pcReady = true ∧ (currentIn s).txRespValid = true ∧ (currentIn s).txRespFail = false

/-- A block that will pass through TICK: it has not halted, and until it is in TICK a command waits. -/
def TickAhead (p : Params) (s : State) : Prop :=
  BlockInv p s ∧ s.phase ≠ .halt ∧ (s.phase ≠ .tick → s.q ≠ [])

/-- With an eager sink and a command waiting, a cycle comes nearer to TICK by exactly one. -/
theorem cyclesToTick_succ_of_eager {p : Params} {s t : State} (hs : TickAhead p s) (htick : s.phase ≠ .tick)
    (heager : EagerSink s) (h : clockStep p s = .next t) :
    cyclesToTick t + 1 = cyclesToTick s ∧ t.phase ≠ .halt ∧ (t.phase ≠ .tick → t.q ≠ []) := by
  obtain ⟨-, hhalt, hwaits⟩ := hs
  obtain ⟨hrst, hready, hvalid, hfail⟩ := heager
  have hq := hwaits htick
  obtain ⟨u, hrow, rfl⟩ := exists_phaseRow hrst h
  rw [cyclesToTick_nextCycle_portStep, nextCycle_phase, portStep_phase, nextCycle_q, portStep_q]
  cases hrow with
  | lastCodeTaken hphase _ hidx => simp [cyclesToTick, hphase, hidx, hq]
  | codeTaken hphase _ hidx =>
    refine ⟨?_, by simp [hphase], by simp [hq]⟩
    simp only [cyclesToTick, hphase, codeIdx_succ_toNat hidx]
    omega
  | txSucceeds hphase => simp [cyclesToTick, hphase, hq]
  | commandWins hphase _ _ hexec => simp [cyclesToTick, hphase, exec_phase hexec]
  | frameStarts hphase => exact absurd hphase htick
  | haltStays hphase => exact absurd hphase hhalt
  | sinkPauses _ hpause => simp [hready] at hpause
  | txFails _ _ hfailed => simp [hfail] at hfailed
  | noResponse _ hnone => simp [hvalid] at hnone
  | timerExpires _ hempty | timerCounts _ hempty | timerWaits _ hempty => exact absurd hempty hq

/-- The run to TICK where nothing waits. -/
theorem exists_run_to_tick {p : Params} (hp : p.Valid) {n : Nat} {s : State} (hs : TickAhead p s)
    (hn : cyclesToTick s = n) (hrun : Throughout p n s EagerSink) :
    ∃ t, stateAfter p n s = some t ∧ t.phase = .tick := by
  induction n generalizing s with
  | zero =>
    obtain ⟨⟨-, -, -, -, hidx, -⟩, -, -⟩ := hs
    refine ⟨s, rfl, ?_⟩
    cases hphase : s.phase with
    | tick => rfl
    | tx =>
      simp only [cyclesToTick, hphase] at hn
      omega
    | txWait | race | halt => simp [cyclesToTick, hphase] at hn
  | succ n ih =>
    have htick : s.phase ≠ .tick := fun h => by simp [cyclesToTick_tick h] at hn
    have ⟨hinv, _⟩ := hs
    obtain ⟨u, hu⟩ := exists_clockStep_next hinv
    obtain ⟨heager, hrun⟩ := (throughout_succ hu).mp hrun
    obtain ⟨hcycles, hahead⟩ := cyclesToTick_succ_of_eager hs htick heager hu
    rw [stateAfter_succ hu]
    exact ih ⟨blockInv_clockStep hp hinv hu, hahead⟩ (by omega) hrun

/-- Settles O50: after the TICK cycle 27 more are the least, and with an eager sink and a command waiting they are
enough. -/
theorem shortestIteration : Obligations.ShortestIteration := by
  constructor
  · intro p n s t hs ht hn h hrst
    obtain ⟨n, rfl⟩ := Nat.exists_eq_add_one.mpr hn
    obtain ⟨u, hu, h⟩ := stateAfter_succ_some h
    obtain ⟨hrst0, hrst⟩ := (throughout_succ hu).mp hrst
    have hbound := cyclesToTick_le_of_run h hrst ht
    rw [cyclesToTick_after_tick hs hrst0 hu] at hbound
    exact Nat.succ_le_succ hbound
  · intro p s hp hinv hs hq hrun
    obtain ⟨u, hu⟩ := exists_clockStep_next hinv
    obtain ⟨⟨hrst, -⟩, hrun⟩ := (throughout_succ hu).mp hrun
    have hahead : TickAhead p u := by
      refine ⟨blockInv_clockStep hp hinv hu, ?_⟩
      rw [clockStep_tick_eq hs hrst hu]
      simp [portStep_q, hq]
    rw [stateAfter_succ hu]
    exact exists_run_to_tick hp hahead (cyclesToTick_after_tick hs hrst hu) hrun

end Sys2Proof.Machine
end

section
/-! HALT (spec/43_driver_loop.md rule R214, spec/60_exceptions.md rules R243 to R245): only the command port goes on. -/

namespace Sys2Proof.Machine

open Sys2Proof.Config

/-- R43: the port never fills the queue beyond two words. -/
theorem portStep_q_length_le_two {p : Params} {i : PortIn} {start s : State} (hstart : start.q.length ≤ 2)
    (hs : s.q.length ≤ start.q.length) : (portStep p i start s).q.length ≤ 2 := by
  obtain ⟨-, h⟩ | ⟨w, cmd, haccept, -, h⟩ | ⟨w, e, -, -, h⟩ := portStep_cases p i start s
  · rw [h]; omega
  · obtain ⟨-, -, hroom, -⟩ := accepted?_some haccept
    simp only [h, pushCommand_q, List.length_append, List.length_singleton]
    omega
  · rw [h, rejectCommand_q]; omega

/-- `t` is in HALT with the registers of `s`, and its queue holds at most two words. -/
def HaltedAs (s t : State) : Prop :=
  t.phase = .halt ∧ t.faultCause = s.faultCause ∧ animationOf t = animationOf s ∧ t.frameColor = s.frameColor ∧
    t.sleepRem = s.sleepRem ∧ t.codeIdx = s.codeIdx ∧ t.q.length ≤ 2

/-- R214: a HALT cycle has a next state, in HALT with the same registers. -/
theorem exists_haltedAs_next {p : Params} {s t : State} (hrst : NoReset t) (h : HaltedAs s t) :
    ∃ u, clockStep p t = .next u ∧ HaltedAs s u := by
  obtain ⟨hphase, hcause, hanim, hcolor, hsleep, hidx, hlen⟩ := h
  refine ⟨_, (PhaseRow.haltStays hphase).clockStep hrst, ?_⟩
  simp [HaltedAs, hphase, hcause, hanim, hcolor, hsleep, hidx, portStep_q_length_le_two hlen le_rfl]

/-- Settles O54: each cycle keeps the halted block as it is, so none takes a code or applies a word, and the queue has
gained what was accepted. -/
theorem haltUntilReset : Obligations.HaltUntilReset := by
  intro p n s hphase hlen hrst
  have hs : HaltedAs s s := ⟨hphase, rfl, rfl, rfl, rfl, rfl, hlen⟩
  have hnext := fun u hu (hhu : HaltedAs s u) => exists_haltedAs_next (p := p) hu hhu
  obtain ⟨t, ht, hthalt, hcause, hanim, hcolor, hsleep, hidx, htlen⟩ := exists_stateAfter_throughout hnext hs hrst
  have hhalt : Throughout p n s fun u => u.phase = .halt := fun k hk u hu =>
    (throughout_of_exists_next hnext hs hrst k hk u hu).1
  have hcodes : codesTaken p n s = [] :=
    gather_eq_nil fun k hk u hu => takenCode?_of_phase_ne p (by simp [hhalt k hk u hu])
  have hwords : wordsApplied p n s = [] :=
    gather_eq_nil fun k hk u hu => appliedWord?_of_phase_ne (by simp [hhalt k hk u hu])
  have hqueue : t.q = s.q ++ wordsQueued p n s := by
    rw [commandsAreFifo p n s t ht hrst, hwords, List.nil_append]
  refine ⟨t, ht, hthalt, hcause, hanim, hcolor, hsleep, hidx, hqueue, htlen, hcodes, hwords, ?_⟩
  simp [outputs, halted, hthalt]

end Sys2Proof.Machine
end

section
/-! Taking `TX_FAIL` (spec/60_exceptions.md rule R242): the sequencer writes `PHASE` and `FAULT_CAUSE`, and the command
port has its part of the same cycle (rule R247). -/

namespace Sys2Proof.Machine

open Sys2Proof.Config

/-- R171, R174: the port changes nothing in a cycle that accepts no word. -/
theorem portStep_of_not_accepted {p : Params} {i : PortIn} {start : State} (h : accepted? p i start = none)
    (s : State) : portStep p i start s = s := by
  rw [portStep, h]

@[simp] theorem animationOf_raiseFault (cause : FaultCause) (s : State) :
    animationOf (raiseFault cause s) = animationOf s := rfl

/-- Settles O52: the TXWAIT row of failure, whose frame is that of `raiseFault`, and the port's part of its cycle. -/
theorem txFailEntry : Obligations.TxFailEntry := by
  intro p s hdone hphase hrst hvalid hfail
  have hrow := PhaseRow.txFails (p := p) hphase hvalid hfail
  have hidx : s.codeIdx = 24#5 := hdone (.inl hphase)
  refine ⟨_, hrow.clockStep hrst, ?_⟩
  simp +contextual [portStep_q, portStep_of_not_accepted, hidx, FaultCause.code]

end Sys2Proof.Machine
end

section
/-! A reset cycle (spec/70_reset_and_hazards.md rule R270): the registers take their reset values, and no handshake of
the three ports completes. -/

namespace Sys2Proof.Machine

open Sys2Proof.Config

section
variable (p : Params) {s : State} (hrst : (currentIn s).rst = true)
include hrst

theorem accepted?_of_rst : accepted? p (currentIn s) s = none := by simp [accepted?, cmdReady, hrst]

theorem takenCode?_of_rst : takenCode? p s = none := by simp [takenCode?, outputs, hrst]

theorem takenResponse?_of_rst : takenResponse? p s = none := by simp [takenResponse?, outputs, hrst]

end

/-- Settles O56: the step is the reset of the block, which keeps the model's own two fields only. -/
theorem resetFromAnyState : Obligations.ResetFromAnyState := fun p _ hrst =>
  ⟨⟨_, clockStep_of_rst p hrst, rfl⟩, accepted?_of_rst p hrst, takenCode?_of_rst p hrst, takenResponse?_of_rst p hrst⟩

end Sys2Proof.Machine
end

section
/-! A command's latency (spec/70_reset_and_hazards.md rule R277): accepted, applied, ticked, a cycle each. -/

namespace Sys2Proof.Machine

open Sys2Proof.Config

/-- R172: an accepted word that decodes is queued. -/
theorem queuedWord?_of_legal {p : Params} {s : State} {w : Nat} {cmd : Instr}
    (ha : accepted? p (currentIn s) s = some w) (hd : decode p w = .ok cmd) : queuedWord? p s = some w := by
  simp [queuedWord?, ha, hd, Except.toOption]

/-- R140: whether a tick is defined, and what it gives, are functions of the animation alone. -/
theorem tick_congr {s t : State} (h : animationOf s = animationOf t) (p : Params) :
    tickDefined s = tickDefined t ∧ tick p s = tick p t := by
  cases s
  cases t
  simp only [animationOf, Animation.mk.injEq] at h
  obtain ⟨rfl, rfl, rfl, rfl, rfl, rfl⟩ := h
  exact ⟨rfl, rfl⟩

/-- R179: the colour a command's first tick sends, a Steady's own and the `C1` of a Blinky. -/
def initialColor : Instr → Color
  | .steady c => c
  | .blinky _ c1 _ => c1

/-- R207: a RACE cycle with a waiting legal word goes to TICK with the command's animation, for which a tick is defined
and gives the command's initial colour (R179). -/
theorem exists_applied_next {p : Params} {s : State} {w : Nat} {rest : List Nat} {cmd : Instr}
    (hphase : s.phase = .race) (hrst : NoReset s) (hq : s.q = w :: rest) (hd : decode p w = .ok cmd) :
    ∃ t, clockStep p s = .next t ∧ t.phase = .tick ∧ animationOf t = Animation.ofCommand cmd ∧ tickDefined t = true ∧
      (tick p t).color = initialColor cmd := by
  obtain ⟨u, hexec⟩ := exec_of_decode hd { s with q := rest }
  obtain ⟨hanim, hdef, hcolor⟩ := commandReplacesAnimation p cmd _ u hexec
  have hsame : animationOf (nextCycle (portStep p (currentIn s) s u)) = animationOf u := by simp
  obtain ⟨hdefSame, htickSame⟩ := tick_congr hsame p
  exact ⟨_, clockStep_race_command hphase hrst hq hd hexec, by simp [exec_phase hexec], hsame.trans hanim,
    hdefSame.trans hdef, (congrArg TickResult.color htickSame).trans hcolor⟩

/-- R202: a TICK cycle in the tick's domain offers the first code of the tick's colour next. -/
theorem exists_frameStart_next {p : Params} {s : State} (hphase : s.phase = .tick) (hrst : NoReset s)
    (hdef : tickDefined s = true) :
    ∃ t, clockStep p s = .next t ∧ t.phase = .tx ∧ t.codeIdx = 0#5 ∧ t.frameColor = (tick p s).color ∧
      t.sleepRem = (tick p s).nextSleep :=
  ⟨_, (PhaseRow.frameStarts hphase hdef).clockStep hrst, by simp⟩

/-- Settles O38: the idle race queues the word, the next cycle applies it, and the one after it ticks. -/
theorem commandLatency : Obligations.CommandLatency := by
  intro p s w cmd hphase hq hsleep ha hd
  obtain ⟨-, hrst, -, -⟩ := accepted?_some ha
  obtain ⟨t1, h1, hanim1, hq1, -, hcounts⟩ := exists_idleRace_next (p := p) ⟨hphase, hq, rfl, rfl⟩ hrst
  obtain ⟨hphase1, -⟩ := hcounts (Nat.pos_of_ne_zero hsleep)
  rw [queuedWord?_of_legal ha hd, Option.toList_some] at hq1
  refine ⟨t1, h1, hphase1, hq1, hanim1, fun hrst1 => ?_⟩
  obtain ⟨t2, h2, hphase2, hanim2, hdef2, hcolor2⟩ := exists_applied_next hphase1 hrst1 hq1 hd
  refine ⟨t2, h2, hphase2, hanim2, fun hrst2 => ?_⟩
  obtain ⟨t3, h3, hphase3, hidx3, hcolor3, -⟩ := exists_frameStart_next (p := p) hphase2 hrst2 hdef2
  exact ⟨t3, h3, hphase3, by simp [hidx3], hcolor3.trans hcolor2⟩

end Sys2Proof.Machine
end

section
/-! An iteration up to its race with an eager sink (spec/43_driver_loop.md rules R202 to R205), and the first one after
reset (spec/70_reset_and_hazards.md rule R273). -/

namespace Sys2Proof.Machine

open Sys2Proof.Config

/-! ### The host's moves along a run -/

theorem clockStep_inputs {p : Params} {s t : State} (h : clockStep p s = .next t) : t.inputs = s.inputs.tail := by
  obtain ⟨-, rfl⟩ | ⟨-, u, hu, rfl⟩ := clockStep_cases h
  · rfl
  · obtain ⟨-, hinputs, -⟩ := sequencer_keeps hu
    rw [nextCycle_inputs, portStep_inputs, hinputs]

theorem stateAfter_inputs {p : Params} {n : Nat} {s t : State} (h : stateAfter p n s = some t) :
    t.inputs = s.inputs.drop n := by
  induction n generalizing s with
  | zero => cases h; rfl
  | succ n ih =>
    obtain ⟨u, hu, h⟩ := stateAfter_succ_some h
    rw [ih h, clockStep_inputs hu, List.drop_tail]

theorem currentIn_mem_inputs {s : State} (h : s.inputs ≠ []) : currentIn s ∈ s.inputs := by
  obtain ⟨i, rest, hi⟩ := List.exists_cons_of_ne_nil h
  simp [currentIn, hi]

/-- What every listed move satisfies, the ports satisfy in each cycle the list reaches. -/
theorem throughout_currentIn {p : Params} {P : PortIn → Prop} {n : Nat} {s : State} (hn : n ≤ s.inputs.length)
    (h : ∀ i ∈ s.inputs, P i) : Throughout p n s fun u => P (currentIn u) := by
  intro k hk t ht
  have hinputs := stateAfter_inputs ht
  have hne : t.inputs ≠ [] := by simpa [hinputs] using hk.trans_le hn
  exact h _ (List.mem_of_mem_drop (hinputs ▸ currentIn_mem_inputs hne))

/-! ### The frame of an eager sink -/

/-- R203: while codes before the last are left, an eager sink takes one in every cycle. -/
theorem exists_eager_tx_run {p : Params} {n : Nat} {s : State} (hphase : s.phase = .tx)
    (hidx : s.codeIdx.toNat + n ≤ 24) (hrun : Throughout p n s EagerSink) :
    ∃ t, stateAfter p n s = some t ∧ t.phase = .tx ∧ t.codeIdx.toNat = s.codeIdx.toNat + n ∧
      t.sleepRem = s.sleepRem := by
  induction n generalizing s with
  | zero => exact ⟨s, rfl, hphase, rfl, rfl⟩
  | succ n ih =>
    obtain ⟨hrst, hready, -, -⟩ := hrun 0 n.succ_pos s rfl
    have hlt : s.codeIdx.toNat < 24 := by omega
    have hstep := (PhaseRow.codeTaken (p := p) hphase hready hlt).clockStep hrst
    have hnext := codeIdx_succ_toNat hlt
    obtain ⟨t, ht, htphase, htidx, htsleep⟩ := ih (s := nextCycle _) (by simpa using hphase)
      (by simp only [nextCycle_codeIdx, portStep_codeIdx]; omega) ((throughout_succ hstep).mp hrun).2
    simp only [nextCycle_codeIdx, portStep_codeIdx, nextCycle_sleepRem, portStep_sleepRem] at htidx htsleep
    exact ⟨t, (stateAfter_succ hstep n).trans ht, htphase, by omega, htsleep⟩

/-- R203: from its first code on, an eager sink takes the whole frame in 25 cycles. -/
theorem exists_eager_frame {p : Params} {s : State} (hphase : s.phase = .tx) (hidx : s.codeIdx = 0#5)
    (hrun : Throughout p 25 s EagerSink) :
    ∃ t, stateAfter p 25 s = some t ∧ t.phase = .txWait ∧ t.sleepRem = s.sleepRem ∧
      codesTaken p 25 s = encodeFrame p s.frameColor := by
  have hsending {k : Nat} (hk : k ≤ 24) := exists_eager_tx_run (p := p) (n := k) hphase (by simpa [hidx] using hk)
    (throughout_of_le hrun (hk.trans (Nat.le_succ 24)))
  have htx : Throughout p 25 s fun u => u.phase = .tx := by
    intro k hk u hu
    obtain ⟨v, hv, hvphase, -⟩ := hsending (Nat.le_of_lt_succ hk)
    cases hu.symm.trans hv
    exact hvphase
  obtain ⟨u, hu, huphase, huidx, husleep⟩ := hsending le_rfl
  have hlast : u.codeIdx = 24#5 := codeIdx_eq_last.mpr (by simpa [hidx] using huidx)
  obtain ⟨hrst, hready, -, -⟩ := hrun 24 (Nat.lt_succ_self 24) u hu
  have hstep := (PhaseRow.lastCodeTaken (p := p) huphase hready hlast).clockStep hrst
  have hend := (stateAfter_add (n := 1) hu).trans (stateAfter_succ hstep 0)
  refine ⟨_, hend, by simp, by simpa using husleep, ?_⟩
  exact frameHandedOverInOrder p 25 s _ hphase hidx hend (fun k hk v hv => (hrun k hk v hv).1) htx (by simp)

/-- R205: an eager sink's response ends the wait in its first cycle, and the cycle takes no code. -/
theorem exists_eager_response_next {p : Params} {s : State} (hphase : s.phase = .txWait) (heager : EagerSink s) :
    ∃ t, clockStep p s = .next t ∧ t.phase = .race ∧ t.sleepRem = s.sleepRem ∧ codesTaken p 1 s = [] := by
  obtain ⟨hrst, -, hvalid, hfail⟩ := heager
  have hstep := (PhaseRow.txSucceeds (p := p) hphase hvalid hfail).clockStep hrst
  refine ⟨_, hstep, by simp, by simp, ?_⟩
  rw [codesTaken, gather_succ _ hstep, takenCode?_of_phase_ne p (by simp [hphase])]
  rfl

/-- R202 to R205: with an eager sink the 27 cycles from a tick to its race. -/
theorem eager_iteration_to_race {p : Params} {s : State} (hphase : s.phase = .tick) (hdef : tickDefined s = true)
    (hrun : Throughout p 27 s EagerSink) :
    (∃ t, stateAfter p 1 s = some t ∧ t.phase = .tx ∧ t.codeIdx.toNat = 0) ∧
    codesTaken p 27 s = encodeFrame p (iterationColor p s) ∧
    (∃ t, stateAfter p 26 s = some t ∧ t.phase = .txWait) ∧
    ∃ t, stateAfter p 27 s = some t ∧ t.phase = .race ∧ t.sleepRem = (tick p s).nextSleep := by
  obtain ⟨hrst, -⟩ := hrun 0 (Nat.succ_pos 26) s rfl
  obtain ⟨u, hu, huphase, huidx, hucolor, husleep⟩ := exists_frameStart_next (p := p) hphase hrst hdef
  obtain ⟨-, hrun⟩ := (throughout_succ hu).mp hrun
  obtain ⟨v, hv, hvphase, hvsleep, hframe⟩ := exists_eager_frame huphase huidx (throughout_of_le hrun (Nat.le_succ 25))
  obtain ⟨t, ht, htphase, htsleep, hnone⟩ :=
    exists_eager_response_next (p := p) hvphase (hrun 25 (Nat.lt_succ_self 25) v hv)
  refine ⟨⟨u, stateAfter_succ hu 0, huphase, by simp [huidx]⟩, ?_, ⟨v, (stateAfter_succ hu 25).trans hv, hvphase⟩,
    t, ?_, htphase, htsleep.trans (hvsleep.trans husleep)⟩
  · calc codesTaken p 27 s
        = (takenCode? p s).toList ++ codesTaken p 26 u := gather_succ _ hu 26
      _ = codesTaken p 26 u := by rw [takenCode?_of_phase_ne p (by simp [hphase])]; rfl
      _ = codesTaken p 25 u ++ codesTaken p 1 v := gather_add (n := 1) (takenCode? p) hv
      _ = encodeFrame p (iterationColor p s) := by rw [hnone, List.append_nil, hframe, hucolor, iterationColor]
  · rw [stateAfter_succ hu, stateAfter_add (m := 25) (n := 1) hv, stateAfter_succ ht, stateAfter_zero]

/-- R126: the frame of black is 24 ZERO and RESET. -/
theorem encodeFrame_black (p : Params) : encodeFrame p 0#24 = List.replicate 24 (zeroCode p) ++ [resetCode p] := rfl

/-- Settles O57: the first iteration is one of a Steady black, whatever the listed moves do at the command port. -/
theorem firstIterationAfterReset : Obligations.FirstIterationAfterReset := by
  intro p l hlen hl
  have heager := throughout_currentIn (p := p) (s := { State.reset with inputs := l }) hlen.ge hl
  have hblack : iterationColor p { State.reset with inputs := l } = 0#24 := rfl
  have hiteration := eager_iteration_to_race rfl rfl heager
  rwa [hblack, encodeFrame_black] at hiteration

end Sys2Proof.Machine
end
